-- ==== Sys2Proof/Word.lean ====
section
/-! DEFINITION. The fixed widths of the block (00_scope.md rule R7, 30_encoding.md rule R51). -/

namespace Sys2Proof

/-- One byte of the host data path (R7, R30). -/
abbrev Byte := BitVec 8

/-- The 32-bit registers `CLOCK`, `START` and `SNAP` (R7). -/
abbrev Word := BitVec 32

/-- An address of the host register space (R30). -/
abbrev Addr := BitVec 4

/-- The input vector of one clock cycle (R51). -/
abbrev InVec := BitVec 17

end Sys2Proof
end

