-- ==== Sys2Proof/Syntax.lean ====
section
/-! DEFINITION. The operations of the block, one constructor per row of spec/opcode_table.json, and
the cycle that combines them (30_encoding.md rules R51 to R58). -/

namespace Sys2Proof

/-- The four independent parts of an input vector (R51). -/
inductive Slot where
  | reset
  | tick
  | pin
  | host
  deriving DecidableEq, Repr

/-- The complete list of operations (R52). Only `WR.IGN` carries operands: every other operation
takes none from the vector (R55), and bits that an operation ignores are not part of it (R59). -/
inductive Instr where
  | reset
  | tick
  | sample0
  | sample1
  | idle
  | nop
  | snap
  | clrw
  | rdStatus
  | rdCmd
  | rdSub
  | rdRsv3
  | rdSnap0
  | rdSnap1
  | rdSnap2
  | rdSnap3
  | rdStart0
  | rdStart1
  | rdStart2
  | rdStart3
  | rdDecH
  | rdDecM
  | rdDecS
  | rdRsvf
  | wrIgn (addr : Addr) (wdata : Byte)
  deriving DecidableEq, Repr

/-- The slot an operation belongs to (R52). -/
def Instr.slot : Instr → Slot
  | .reset => .reset
  | .tick => .tick
  | .sample0 => .pin
  | .sample1 => .pin
  | .idle => .host
  | .nop => .host
  | .snap => .host
  | .clrw => .host
  | .rdStatus => .host
  | .rdCmd => .host
  | .rdSub => .host
  | .rdRsv3 => .host
  | .rdSnap0 => .host
  | .rdSnap1 => .host
  | .rdSnap2 => .host
  | .rdSnap3 => .host
  | .rdStart0 => .host
  | .rdStart1 => .host
  | .rdStart2 => .host
  | .rdStart3 => .host
  | .rdDecH => .host
  | .rdDecM => .host
  | .rdDecS => .host
  | .rdRsvf => .host
  | .wrIgn _ _ => .host

/-- The operation's name in the opcode map (R56). -/
def Instr.mnemonic : Instr → String
  | .reset => "RESET"
  | .tick => "TICK"
  | .sample0 => "SAMPLE0"
  | .sample1 => "SAMPLE1"
  | .idle => "IDLE"
  | .nop => "NOP"
  | .snap => "SNAP"
  | .clrw => "CLRW"
  | .rdStatus => "RD.STATUS"
  | .rdCmd => "RD.CMD"
  | .rdSub => "RD.SUB"
  | .rdRsv3 => "RD.RSV3"
  | .rdSnap0 => "RD.SNAP0"
  | .rdSnap1 => "RD.SNAP1"
  | .rdSnap2 => "RD.SNAP2"
  | .rdSnap3 => "RD.SNAP3"
  | .rdStart0 => "RD.START0"
  | .rdStart1 => "RD.START1"
  | .rdStart2 => "RD.START2"
  | .rdStart3 => "RD.START3"
  | .rdDecH => "RD.DEC_H"
  | .rdDecM => "RD.DEC_M"
  | .rdDecS => "RD.DEC_S"
  | .rdRsvf => "RD.RSVF"
  | .wrIgn _ _ => "WR.IGN"

/-- What one cycle's vector selects: `RESET` alone, or one host operation, a tick or none, and one
pin sample of the given level (R52, R53). -/
inductive Cycle where
  | reset
  | run (host : Instr) (tick : Bool) (pin : Bool)
  deriving DecidableEq, Repr

/-- The pin-slot operation that captures the level `b` (R91, R92). -/
def pinInstr (b : Bool) : Instr := if b then .sample1 else .sample0

/-- The operations of a cycle in the order in which `Step` applies them: host, tick, pin (R53). -/
def Cycle.ops : Cycle → List Instr
  | .reset => [.reset]
  | .run host true pin => [host, .tick, pinInstr pin]
  | .run host false pin => [host, pinInstr pin]

end Sys2Proof
end

