-- ==== Sys2Proof/WellFormed.lean ====
section
/-! DEFINITION. Which operations and cycles are well formed: `WR.IGN` is the catch-all of the host
writes, so it never stands for a write that is a command (30_encoding.md rules R56 to R58), and a
cycle's host slot holds a host operation (R52). -/

namespace Sys2Proof

/-- The writes that are commands: `CMD` with one of the three opcodes (R57). -/
def isCommandWrite (addr : Addr) (wdata : Byte) : Bool :=
  addr == 0x1#4 && (wdata == 0x00#8 || wdata == 0x01#8 || wdata == 0x02#8)

/-- `WR.IGN` is every host write that is not `NOP`, `SNAP` or `CLRW` (R58). -/
def Instr.wf : Instr → Bool
  | .reset => true
  | .tick => true
  | .sample0 => true
  | .sample1 => true
  | .idle => true
  | .nop => true
  | .snap => true
  | .clrw => true
  | .rdStatus => true
  | .rdCmd => true
  | .rdSub => true
  | .rdRsv3 => true
  | .rdSnap0 => true
  | .rdSnap1 => true
  | .rdSnap2 => true
  | .rdSnap3 => true
  | .rdStart0 => true
  | .rdStart1 => true
  | .rdStart2 => true
  | .rdStart3 => true
  | .rdDecH => true
  | .rdDecM => true
  | .rdDecS => true
  | .rdRsvf => true
  | .wrIgn addr wdata => !isCommandWrite addr wdata

/-- A cycle holds a well-formed host operation in its host slot (R52). -/
def Cycle.wf : Cycle → Bool
  | .reset => true
  | .run host _ _ => host.slot == .host && host.wf

end Sys2Proof
end

