-- ==== Sys2Proof/Decode.lean ====
section
/-! DEFINITION. The input vector's fields, the decoder and the encoder (30_encoding.md rules R51 to
R60). Every vector of 17 bits decodes; a number of more than 17 bits is rejected by name. -/

namespace Sys2Proof

/-! ## Fields of the vector (R51) -/

/-- `IN[16]`. -/
def vecRst (v : InVec) : Bool := v.getLsbD 16

/-- `IN[15]`. -/
def vecTick (v : InVec) : Bool := v.getLsbD 15

/-- `IN[14]`, the captured pin level. -/
def vecPin (v : InVec) : Bool := v.getLsbD 14

/-- `IN[13]`. -/
def vecSel (v : InVec) : Bool := v.getLsbD 13

/-- `IN[12]`. -/
def vecWe (v : InVec) : Bool := v.getLsbD 12

/-- `IN[11:8]`. -/
def vecAddr (v : InVec) : Addr := v.extractLsb' 8 4

/-- `IN[7:0]`. -/
def vecWdata (v : InVec) : Byte := v.extractLsb' 0 8

/-- `IN = {rst, tick, pin_s, sel, we, addr[3:0], wdata[7:0]}` (R51). -/
def vecOf (rst tick pin sel we : Bool) (addr : Addr) (wdata : Byte) : InVec :=
  BitVec.ofBool rst ++ BitVec.ofBool tick ++ BitVec.ofBool pin ++ BitVec.ofBool sel ++
    BitVec.ofBool we ++ addr ++ wdata

/-! ## The decoder -/

/-- A host write, format HW (R54, R57, R58). -/
def decodeWrite (addr : Addr) (wdata : Byte) : Instr :=
  if addr = 0x1#4 then
    if wdata = 0x00#8 then .nop
    else if wdata = 0x01#8 then .snap
    else if wdata = 0x02#8 then .clrw
    else .wrIgn addr wdata
  else .wrIgn addr wdata

/-- A host read, format HR: the sixteen addresses (R52, R54). -/
def decodeRead (addr : Addr) : Instr :=
  match addr.toNat with
  | 0x0 => .rdStatus
  | 0x1 => .rdCmd
  | 0x2 => .rdSub
  | 0x3 => .rdRsv3
  | 0x4 => .rdSnap0
  | 0x5 => .rdSnap1
  | 0x6 => .rdSnap2
  | 0x7 => .rdSnap3
  | 0x8 => .rdStart0
  | 0x9 => .rdStart1
  | 0xA => .rdStart2
  | 0xB => .rdStart3
  | 0xC => .rdDecH
  | 0xD => .rdDecM
  | 0xE => .rdDecS
  | _ => .rdRsvf

/-- The host slot: `IDLE` when `sel = 0`, else a write or a read (R52, R54). -/
def decodeHost (v : InVec) : Instr :=
  if vecSel v then
    if vecWe v then decodeWrite (vecAddr v) (vecWdata v) else decodeRead (vecAddr v)
  else .idle

/-- What a vector selects (R52): with `rst = 1` nothing but `RESET` is decoded. -/
def decode (v : InVec) : Cycle :=
  if vecRst v then .reset else .run (decodeHost v) (vecTick v) (vecPin v)

/-- The operation that one slot of a vector carries, or none (R51, R52). -/
def decodeSlot (sl : Slot) (v : InVec) : Option Instr :=
  match sl with
  | .reset => if vecRst v then some .reset else none
  | .tick => if vecRst v then none else if vecTick v then some .tick else none
  | .pin => if vecRst v then none else some (pinInstr (vecPin v))
  | .host => if vecRst v then none else some (decodeHost v)

/-- Why a number is no input vector. -/
inductive DecodeReject where
  /-- the number needs more than the 17 bits of a vector (R60: one length, no other form) -/
  | widerThanVector
  deriving DecidableEq, Repr

/-- The decoder on any number: the cycle, or the name of the rejection. -/
def decodeNumber (w : Nat) : Except DecodeReject Cycle :=
  if w < 2 ^ 17 then .ok (decode (BitVec.ofNat 17 w)) else .error .widerThanVector

/-- The one operation that stands for a cycle where a single name is asked for (log entry 6):
`RESET`; else the host operation when the host drives the port; else `TICK`; else the pin sample. -/
def Cycle.principal : Cycle → Instr
  | .reset => .reset
  | .run host tick pin =>
    if host = .idle then (if tick then .tick else pinInstr pin) else host

/-- The operation this decoder reads from a word numbered as the opcode table numbers it; the words
have 17 bits whatever number of whole bytes holds them (log entry 6). -/
def decodeTableWord (_nbits w : Nat) : Option Instr :=
  match decodeNumber w with
  | .ok c => some c.principal
  | .error _ => none

/-! ## The encoder (R54, R56, R59: ignored bits are 0) -/

/-- The canonical vector bits of one operation's slot. -/
def encode : Instr → InVec
  | .reset => vecOf true false false false false 0x0#4 0x00#8
  | .tick => vecOf false true false false false 0x0#4 0x00#8
  | .sample0 => vecOf false false false false false 0x0#4 0x00#8
  | .sample1 => vecOf false false true false false 0x0#4 0x00#8
  | .idle => vecOf false false false false false 0x0#4 0x00#8
  | .nop => vecOf false false false true true 0x1#4 0x00#8
  | .snap => vecOf false false false true true 0x1#4 0x01#8
  | .clrw => vecOf false false false true true 0x1#4 0x02#8
  | .rdStatus => vecOf false false false true false 0x0#4 0x00#8
  | .rdCmd => vecOf false false false true false 0x1#4 0x00#8
  | .rdSub => vecOf false false false true false 0x2#4 0x00#8
  | .rdRsv3 => vecOf false false false true false 0x3#4 0x00#8
  | .rdSnap0 => vecOf false false false true false 0x4#4 0x00#8
  | .rdSnap1 => vecOf false false false true false 0x5#4 0x00#8
  | .rdSnap2 => vecOf false false false true false 0x6#4 0x00#8
  | .rdSnap3 => vecOf false false false true false 0x7#4 0x00#8
  | .rdStart0 => vecOf false false false true false 0x8#4 0x00#8
  | .rdStart1 => vecOf false false false true false 0x9#4 0x00#8
  | .rdStart2 => vecOf false false false true false 0xA#4 0x00#8
  | .rdStart3 => vecOf false false false true false 0xB#4 0x00#8
  | .rdDecH => vecOf false false false true false 0xC#4 0x00#8
  | .rdDecM => vecOf false false false true false 0xD#4 0x00#8
  | .rdDecS => vecOf false false false true false 0xE#4 0x00#8
  | .rdRsvf => vecOf false false false true false 0xF#4 0x00#8
  | .wrIgn addr wdata => vecOf false false false true true addr wdata

/-- The vector of a whole cycle: its slots' bits together (R51). -/
def encodeCycle : Cycle → InVec
  | .reset => encode .reset
  | .run host tick pin =>
    encode host ||| (if tick then encode .tick else 0#17) ||| encode (pinInstr pin)

/-! ## The opcode map (R56) -/

/-- A row of the opcode map. -/
structure OpcodeRow where
  mnemonic : String
  slot : Slot
  mask : InVec
  pattern : InVec
  deriving DecidableEq, Repr

/-- A row matches when `(IN AND mask) = match` (R56). -/
def OpcodeRow.selects (row : OpcodeRow) (v : InVec) : Bool := (v &&& row.mask) == row.pattern

/-- The rows of R56 outside the host slot. -/
def eventRows : List OpcodeRow :=
  [⟨"RESET", .reset, 0x10000#17, 0x10000#17⟩,
   ⟨"TICK", .tick, 0x18000#17, 0x08000#17⟩,
   ⟨"SAMPLE0", .pin, 0x14000#17, 0x00000#17⟩,
   ⟨"SAMPLE1", .pin, 0x14000#17, 0x04000#17⟩]

/-- The idle row and the command rows of the host slot. -/
def commandRows : List OpcodeRow :=
  [⟨"IDLE", .host, 0x12000#17, 0x00000#17⟩,
   ⟨"NOP", .host, 0x13FFF#17, 0x03100#17⟩,
   ⟨"SNAP", .host, 0x13FFF#17, 0x03101#17⟩,
   ⟨"CLRW", .host, 0x13FFF#17, 0x03102#17⟩]

/-- The read rows of the host slot. -/
def readRows : List OpcodeRow :=
  [⟨"RD.STATUS", .host, 0x13F00#17, 0x02000#17⟩,
   ⟨"RD.CMD", .host, 0x13F00#17, 0x02100#17⟩,
   ⟨"RD.SUB", .host, 0x13F00#17, 0x02200#17⟩,
   ⟨"RD.RSV3", .host, 0x13F00#17, 0x02300#17⟩,
   ⟨"RD.SNAP0", .host, 0x13F00#17, 0x02400#17⟩,
   ⟨"RD.SNAP1", .host, 0x13F00#17, 0x02500#17⟩,
   ⟨"RD.SNAP2", .host, 0x13F00#17, 0x02600#17⟩,
   ⟨"RD.SNAP3", .host, 0x13F00#17, 0x02700#17⟩,
   ⟨"RD.START0", .host, 0x13F00#17, 0x02800#17⟩,
   ⟨"RD.START1", .host, 0x13F00#17, 0x02900#17⟩,
   ⟨"RD.START2", .host, 0x13F00#17, 0x02A00#17⟩,
   ⟨"RD.START3", .host, 0x13F00#17, 0x02B00#17⟩,
   ⟨"RD.DEC_H", .host, 0x13F00#17, 0x02C00#17⟩,
   ⟨"RD.DEC_M", .host, 0x13F00#17, 0x02D00#17⟩,
   ⟨"RD.DEC_S", .host, 0x13F00#17, 0x02E00#17⟩,
   ⟨"RD.RSVF", .host, 0x13F00#17, 0x02F00#17⟩]

/-- The rows of R56 in their order; `WR.IGN` catches the writes that no earlier host row does. -/
def opcodeMap : List OpcodeRow :=
  eventRows ++ commandRows ++ readRows ++ [⟨"WR.IGN", .host, 0x13000#17, 0x03000#17⟩]

/-- The first row of a slot that selects the vector (R56). -/
def lookupRow (sl : Slot) (v : InVec) : Option OpcodeRow :=
  opcodeMap.find? fun row => row.slot == sl && row.selects v

/-- Every row that could select the vector in a slot, without regard to the order. -/
def matchingRows (sl : Slot) (v : InVec) : List OpcodeRow :=
  opcodeMap.filter fun row => row.slot == sl && row.selects v

/-! ## Ignored bits (R59) -/

/-- Two vectors differ only in ignored bits (R59): under reset nothing else is looked at; `IDLE`
ignores `we`, `addr` and `wdata`; a read ignores `wdata`. -/
def sameButIgnored (v w : InVec) : Bool :=
  vecRst v == vecRst w &&
    (vecRst v ||
      (vecTick v == vecTick w && vecPin v == vecPin w && vecSel v == vecSel w &&
        (!vecSel v ||
          (vecWe v == vecWe w && vecAddr v == vecAddr w && (!vecWe v || vecWdata v == vecWdata w)))))

end Sys2Proof
end

