-- ==== Sys2Proof/Config.lean ====
section
/-! DEFINITION. The implementation parameters (00_scope.md rule R6) and the model's free values. -/

namespace Sys2Proof

/-- The parameters fixed when the block is built (R6). `PIN_IDLE` is a Bool, so "0 or 1" holds by
its type. Log entry 4 says where the record stands. -/
structure Config where
  incMs : Nat
  corrPeriod : Nat
  corrMs : Nat
  wrapMs : Nat
  initH : Nat
  initM : Nat
  initS : Nat
  pinIdle : Bool
  deriving DecidableEq, Repr

/-- `INIT_MS`, the configured time of day in milliseconds (R6). -/
def Config.initMs (c : Config) : Nat := ((c.initH * 3600) + (c.initM * 60) + c.initS) * 1000

/-- The constraints of R6 on the parameters, each as the table gives it, and the joint constraint.
A configuration that breaks one is ill formed (93_implementation_defined.md U6). -/
abbrev Config.Legal (c : Config) : Prop :=
  1 ≤ c.incMs ∧
  1 ≤ c.corrPeriod ∧ c.corrPeriod ≤ 255 ∧
  1 ≤ c.wrapMs ∧ c.wrapMs ≤ 86400000 ∧
  c.initH ≤ 23 ∧ c.initM ≤ 59 ∧ c.initS ≤ 59 ∧
  c.initMs < c.wrapMs ∧
  c.wrapMs - 1 + c.incMs + c.corrMs ≤ 2 ^ 32 - 1

/-- DESIGN CHOICE (log entry 4): the defaults of R6, with the OPEN parameters at the values of the
test vectors (95_test_vectors.md: 21:30:00 and PIN_IDLE = 0). -/
def Config.standard : Config where
  incMs := 17
  corrPeriod := 9
  corrMs := 7
  wrapMs := 86399000
  initH := 21
  initM := 30
  initS := 0
  pinIdle := false

/-- DESIGN CHOICE (log entry 2), a free value: the vector the environment drives in a cycle for
which no input is listed, for the n-th such cycle. -/
opaque Config.freeInput : Nat → InVec

/-- DESIGN CHOICE (log entry 8), a free value: the byte that a read of `DEC_H`, `DEC_M` or `DEC_S`
(by its address) returns for a snapshot at or above 86,400,000, to which R120 gives no meaning. -/
opaque Config.freeDecode : Addr → Word → Byte

end Sys2Proof
end

