-- ==== Sys2Proof/Machine/State.lean ====
section
/-! DEFINITION. The block's eight registers (10_state.md rule R10), the outputs, the state the step
function works on, its reasons to stop, and the state right after reset (rule R19). -/

namespace Sys2Proof.Machine

/-- The complete state of the block: eight registers, 108 bits (R10). -/
structure Regs where
  /-- `CLOCK`, Clock State (R11) -/
  clock : Word
  /-- `SUB`, the sub-tick counter (R12) -/
  sub : Byte
  /-- `START`, the start-offset marker (R13) -/
  start : Word
  /-- `WAKE`, the Wake Flag (R15) -/
  wake : Bool
  /-- `SNAP`, the snapshot latch (R14) -/
  snap : Word
  /-- `SY1`, first synchronizer stage (R16) -/
  sy1 : Bool
  /-- `SY2`, second synchronizer stage (R16) -/
  sy2 : Bool
  /-- `PREV`, the synchronized level one cycle earlier (R16) -/
  prev : Bool
  deriving DecidableEq, Repr

/-- The output ports (R50). -/
structure Output where
  irq : Bool
  rdata : Byte
  deriving DecidableEq, Repr

/-- What one step works on: the block's registers, and four fields of the model's own, which R18 says are
no state of the block; the block without them is `blockStep` (Machine/Block.lean). -/
structure State where
  /-- the block's registers -/
  regs : Regs
  /-- the build-time parameters, which no step changes (log entry 4) -/
  cfg : Config
  /-- the input vectors of the coming cycles, the next one first (log entry 1) -/
  inputs : List InVec
  /-- how many free input vectors have been drawn (log entry 2) -/
  drawn : Nat
  /-- the outputs of the last completed cycle, which no step reads (log entry 3) -/
  out : Output
  deriving DecidableEq, Repr

/-- The faults of the block: there are none (60_exceptions.md rule R130). -/
inductive Fault where
  deriving DecidableEq, Repr

/-- Why a step has no meaning. -/
inductive Refusal where
  /-- raised by an arm of `exec` whose operation has no meaning yet; no arm does; safe -/
  | notModelled (mnemonic : String)
  /-- raised by `step` alone, for a configuration that breaks a constraint of R6, of which the spec
  says nothing (93_implementation_defined.md U6); safe -/
  | illFormedConfig
  deriving DecidableEq, Repr

/-- `ResetState` (70_reset_and_hazards.md rule R161). -/
def Regs.reset (c : Config) : Regs where
  clock := BitVec.ofNat 32 c.initMs
  sub := 0x00#8
  start := BitVec.ofNat 32 c.initMs
  wake := false
  snap := 0#32
  sy1 := c.pinIdle
  sy2 := c.pinIdle
  prev := c.pinIdle

/-- The state right after reset of a block built with the parameters `c`: no input is listed and no
free one has been drawn; the outputs are those of a cycle with no read and no pending wake event. -/
def State.resetOf (c : Config) : State where
  regs := Regs.reset c
  cfg := c
  inputs := []
  drawn := 0
  out := { irq := false, rdata := 0x00#8 }

/-- The machine right after reset (R19), with the parameters of log entry 4. -/
def State.reset : State := State.resetOf Config.standard

end Sys2Proof.Machine
end

