-- ==== Sys2Proof/Machine/Flags.lean ====
section
/-! DEFINITION. The one flag of the block, `WAKE` (10_state.md rule R15), and the edge that sets it
(41_wake_flag.md rules R85 to R95). There is no carry, zero, overflow or sign flag. -/

namespace Sys2Proof.Machine

/-- `edge = (SY2 != PREV)`: either edge of the synchronized level (R85, R87). -/
def Regs.edge (r : Regs) : Bool := r.sy2 != r.prev

/-- The flag after a pin sample: set by an edge, otherwise as it was (R85, R93). -/
def Regs.wakeAfterSample (r : Regs) : Bool := r.wake || r.edge

/-- `CLRW` clears the flag unconditionally (R90). -/
def Regs.clearWake (r : Regs) : Regs := { r with wake := false }

end Sys2Proof.Machine
end

