-- ==== Sys2Proof/Machine/Operands.lean ====
section
/-! DEFINITION. The operand forms: a command byte (30_encoding.md rule R57), a byte of a 32-bit
register (20_memory.md rule R35), and the packed digits of a snapshot (43_time_decode.md). -/

namespace Sys2Proof.Machine

/-! ## Commands -/

/-- The commands that a write to `CMD` can issue (R32). -/
inductive Command where
  | nop
  | snap
  | clrw
  deriving DecidableEq, Repr

/-- The whole byte is compared; every other value is reserved (R57). -/
def commandOf (v : Byte) : Option Command :=
  if v = 0x00#8 then some .nop
  else if v = 0x01#8 then some .snap
  else if v = 0x02#8 then some .clrw
  else none

/-! ## Bytes of a word -/

/-- `v[8k+7:8k]`, byte `k` of a 32-bit register, the least significant being byte 0 (R35). -/
def byteOf (w : Word) (k : Nat) : Byte := w.extractLsb' (8 * k) 8

/-- The value a host assembles from four byte reads (R35, R62). -/
def assemble32 (b0 b1 b2 b3 : Byte) : Nat :=
  b0.toNat + 256 * b1.toNat + 65536 * b2.toNat + 16777216 * b3.toNat

/-! ## Decoded Time -/

/-- The result of `Decode` (R120). -/
structure DecodedTime where
  hours : Nat
  minutes : Nat
  seconds : Nat
  hTens : Nat
  hOnes : Nat
  mTens : Nat
  mOnes : Nat
  sTens : Nat
  sOnes : Nat
  deriving DecidableEq, Repr

/-- `Decode(t)` (R121). -/
def decodeTime (t : Nat) : DecodedTime :=
  let totalS := t / 1000
  let hours := totalS / 3600
  let minutes := totalS % 3600 / 60
  let seconds := totalS % 60
  { hours := hours
    minutes := minutes
    seconds := seconds
    hTens := hours / 10
    hOnes := hours % 10
    mTens := minutes / 10
    mOnes := minutes % 10
    sTens := seconds / 10
    sOnes := seconds % 10 }

/-- Two digits in a byte, tens in the high nibble (R122). -/
def packDigits (tens ones : Nat) : Byte := BitVec.ofNat 4 tens ++ BitVec.ofNat 4 ones

/-- The arguments to which `Decode` gives a meaning (R120). -/
def decodable (w : Word) : Bool := decide (w.toNat < 86400000)

/-- A packed-digits byte of the snapshot `w`, presented at address `a`: `digits` picks it; above the
range of `Decode` the byte is a free value (R120, log entry 8). -/
def decodedByte (a : Addr) (w : Word) (digits : DecodedTime → Byte) : Byte :=
  if decodable w then digits (decodeTime w.toNat) else Config.freeDecode a w

/-- `DEC_H` (R122). -/
def packedHours (d : DecodedTime) : Byte := packDigits d.hTens d.hOnes

/-- `DEC_M` (R122). -/
def packedMinutes (d : DecodedTime) : Byte := packDigits d.mTens d.mOnes

/-- `DEC_S` (R122). -/
def packedSeconds (d : DecodedTime) : Byte := packDigits d.sTens d.sOnes

end Sys2Proof.Machine
end

