-- ==== Sys2Proof/Machine/Ops.lean ====
section
/-! DEFINITION. The shared operations: the tick update, the pin sample, the snapshot, the register
space's reads and writes, and driving the outputs. The block takes no exception and has no return
from one (60_exceptions.md rules R130, R139, R140), so there is no such operation here. -/

namespace Sys2Proof.Machine

/-! ## The tick update (40_tick_accumulator.md rule R70) -/

/-- `k1 >= CORR_PERIOD`: this tick completes a correction cycle (R73). -/
def Regs.correctionDue (c : Config) (r : Regs) : Bool := decide (c.corrPeriod ≤ r.sub.toNat + 1)

/-- `c2`, the transient sum: the increment, and the correction if it is due (R71, R73). -/
def Regs.tickSum (c : Config) (r : Regs) : Nat :=
  r.clock.toNat + c.incMs + (if r.correctionDue c then c.corrMs else 0)

/-- `k2`, the sub-tick count that the tick stores (R73, R74). -/
def Regs.tickCount (c : Config) (r : Regs) : Nat := if r.correctionDue c then 0 else r.sub.toNat + 1

/-- `c2 >= WRAP_MS`: this tick wraps; the sum is compared after the correction (R72, R76). -/
def Regs.tickWraps (c : Config) (r : Regs) : Bool := decide (c.wrapMs ≤ r.tickSum c)

/-- `TICK`: `CLOCK` and, at a wrap, `START` in lockstep; `SUB` in either case (R70, R74, R75). -/
def Regs.tick (c : Config) (r : Regs) : Regs :=
  if r.tickWraps c then
    { r with clock := 0#32, start := 0#32, sub := BitVec.ofNat 8 (r.tickCount c) }
  else
    { r with clock := BitVec.ofNat 32 (r.tickSum c), sub := BitVec.ofNat 8 (r.tickCount c) }

/-! ## The pin sample (41_wake_flag.md rule R85) -/

/-- `SAMPLE(s, b)`: the edge is found from the values at the start of the operation. -/
def Regs.sample (b : Bool) (r : Regs) : Regs :=
  { r with prev := r.sy2, sy2 := r.sy1, sy1 := b, wake := r.wakeAfterSample }

/-! ## The snapshot (42_snapshot_and_host_reads.md rule R101) -/

/-- `SNAP <- CLOCK`, all 32 bits in one step. -/
def Regs.takeSnapshot (r : Regs) : Regs := { r with snap := r.clock }

/-! ## The host register space (20_memory.md rules R31, R33, R34) -/

/-- `MemRead(addr, 1)`: the register map (R31). A read changes no register. -/
def memRead (r : Regs) (a : Addr) : Byte :=
  match a.toNat with
  | 0x0 => 0#7 ++ BitVec.ofBool r.wake
  | 0x1 => 0x00#8
  | 0x2 => r.sub
  | 0x3 => 0x00#8
  | 0x4 => byteOf r.snap 0
  | 0x5 => byteOf r.snap 1
  | 0x6 => byteOf r.snap 2
  | 0x7 => byteOf r.snap 3
  | 0x8 => byteOf r.start 0
  | 0x9 => byteOf r.start 1
  | 0xA => byteOf r.start 2
  | 0xB => byteOf r.start 3
  | 0xC => decodedByte 0xC#4 r.snap packedHours
  | 0xD => decodedByte 0xD#4 r.snap packedMinutes
  | 0xE => decodedByte 0xE#4 r.snap packedSeconds
  | _ => 0x00#8

/-- The effect of a command on the registers (R90, R100, R101). -/
def Regs.command (r : Regs) : Command → Regs
  | .nop => r
  | .snap => r.takeSnapshot
  | .clrw => r.clearWake

/-- `MemWrite(addr, 1, v)`: a command at `CMD`, ignored everywhere else and for a reserved opcode; no
write stores its data byte (R34, R38, R58). -/
def memWrite (r : Regs) (a : Addr) (v : Byte) : Regs :=
  if a = 0x1#4 then
    match commandOf v with
    | some cmd => r.command cmd
    | none => r
  else r

/-! ## Updates of the state -/

/-- The state with other registers. -/
def State.setRegs (s : State) (r : Regs) : State := { s with regs := r }

/-- The outputs of a cycle, both computed from the state at its start (R53): `irq` is `WAKE` (R134),
`rdata` is the byte of a read and 0x00 in every other cycle (R33). The first operation of a cycle
(`RESET` or the host operation) drives them (log entry 19). -/
def State.drive (s : State) (rdata : Byte) : State :=
  { s with out := { irq := s.regs.wake, rdata := rdata } }

/-- A host read: the byte goes out, the registers stay (R33). -/
def State.hostRead (s : State) (a : Addr) : State := s.drive (memRead s.regs a)

/-- A host write: `rdata` is 0x00 (R33), and the write acts as R34 says. -/
def State.hostWrite (s : State) (a : Addr) (v : Byte) : State :=
  (s.drive 0x00#8).setRegs (memWrite s.regs a v)

end Sys2Proof.Machine
end

