-- ==== Sys2Proof/Machine/HostReads.lean ====
section
/-! DEFINITION. The host reads, `RD.*` (42_snapshot_and_host_reads.md rules R103 to R118). Each
changes no register; the byte comes from the register map of `memRead`. -/

namespace Sys2Proof.Machine

/-- `RD.STATUS` (R103): `rdata` is `{0b0000000, WAKE}`. -/
def execRdStatus (s : State) : Host.Outcome State Fault Refusal :=
  .next (s.hostRead 0x0#4)

/-- `RD.CMD` (R104): `rdata` is 0x00 always. -/
def execRdCmd (s : State) : Host.Outcome State Fault Refusal :=
  .next (s.hostRead 0x1#4)

/-- `RD.SUB` (R105): `rdata` is `SUB`, live. -/
def execRdSub (s : State) : Host.Outcome State Fault Refusal :=
  .next (s.hostRead 0x2#4)

/-- `RD.RSV3` (R106): `rdata` is 0x00 always, a reserved address. -/
def execRdRsv3 (s : State) : Host.Outcome State Fault Refusal :=
  .next (s.hostRead 0x3#4)

/-- `RD.SNAP0` (R107): `rdata` is `SNAP[7:0]`. -/
def execRdSnap0 (s : State) : Host.Outcome State Fault Refusal :=
  .next (s.hostRead 0x4#4)

/-- `RD.SNAP1` (R108): `rdata` is `SNAP[15:8]`. -/
def execRdSnap1 (s : State) : Host.Outcome State Fault Refusal :=
  .next (s.hostRead 0x5#4)

/-- `RD.SNAP2` (R109): `rdata` is `SNAP[23:16]`. -/
def execRdSnap2 (s : State) : Host.Outcome State Fault Refusal :=
  .next (s.hostRead 0x6#4)

/-- `RD.SNAP3` (R110): `rdata` is `SNAP[31:24]`. -/
def execRdSnap3 (s : State) : Host.Outcome State Fault Refusal :=
  .next (s.hostRead 0x7#4)

/-- `RD.START0` (R111): `rdata` is `START[7:0]`, live. -/
def execRdStart0 (s : State) : Host.Outcome State Fault Refusal :=
  .next (s.hostRead 0x8#4)

/-- `RD.START1` (R112): `rdata` is `START[15:8]`, live. -/
def execRdStart1 (s : State) : Host.Outcome State Fault Refusal :=
  .next (s.hostRead 0x9#4)

/-- `RD.START2` (R113): `rdata` is `START[23:16]`, live. -/
def execRdStart2 (s : State) : Host.Outcome State Fault Refusal :=
  .next (s.hostRead 0xA#4)

/-- `RD.START3` (R114): `rdata` is `START[31:24]`, live. -/
def execRdStart3 (s : State) : Host.Outcome State Fault Refusal :=
  .next (s.hostRead 0xB#4)

/-- `RD.DEC_H` (R115): `rdata` is `{H_TENS, H_ONES}` of `Decode(SNAP)`. -/
def execRdDecH (s : State) : Host.Outcome State Fault Refusal :=
  .next (s.hostRead 0xC#4)

/-- `RD.DEC_M` (R116): `rdata` is `{M_TENS, M_ONES}` of `Decode(SNAP)`. -/
def execRdDecM (s : State) : Host.Outcome State Fault Refusal :=
  .next (s.hostRead 0xD#4)

/-- `RD.DEC_S` (R117): `rdata` is `{S_TENS, S_ONES}` of `Decode(SNAP)`. -/
def execRdDecS (s : State) : Host.Outcome State Fault Refusal :=
  .next (s.hostRead 0xE#4)

/-- `RD.RSVF` (R118): `rdata` is 0x00 always, a reserved address. -/
def execRdRsvf (s : State) : Host.Outcome State Fault Refusal :=
  .next (s.hostRead 0xF#4)

end Sys2Proof.Machine
end

