-- ==== Sys2Proof/Machine/HostWrites.lean ====
section
/-! DEFINITION. The host slot without a read: `IDLE`, the three commands and the ignored writes
(42_snapshot_and_host_reads.md rules R100 to R102, 41_wake_flag.md rule R90, 30_encoding.md rule R58). -/

namespace Sys2Proof.Machine

/-- `IDLE` (R102): no register changes and `rdata` is 0x00. -/
def execIdle (s : State) : Host.Outcome State Fault Refusal :=
  .next (s.drive 0x00#8)

/-- `NOP`, a write of 0x00 to `CMD` (R100). -/
def execNop (s : State) : Host.Outcome State Fault Refusal :=
  .next (s.hostWrite 0x1#4 0x00#8)

/-- `SNAP`, a write of 0x01 to `CMD` (R101). -/
def execSnap (s : State) : Host.Outcome State Fault Refusal :=
  .next (s.hostWrite 0x1#4 0x01#8)

/-- `CLRW`, a write of 0x02 to `CMD` (R90). -/
def execClrw (s : State) : Host.Outcome State Fault Refusal :=
  .next (s.hostWrite 0x1#4 0x02#8)

/-- `WR.IGN(s) = s` (R58): no register changes, whatever is written where; `rdata` is 0x00. -/
def execWrIgn (_addr : Addr) (_wdata : Byte) (s : State) : Host.Outcome State Fault Refusal :=
  .next (s.drive 0x00#8)

end Sys2Proof.Machine
end

