-- ==== Sys2Proof/Machine/Pin.lean ====
section
/-! DEFINITION. The pin slot: `SAMPLE0` and `SAMPLE1` (41_wake_flag.md rules R91, R92). -/

namespace Sys2Proof.Machine

/-- `SAMPLE0(s) = SAMPLE(s, 0)` (R91). -/
def execSample0 (s : State) : Host.Outcome State Fault Refusal :=
  .next (s.setRegs (s.regs.sample false))

/-- `SAMPLE1(s) = SAMPLE(s, 1)` (R92). -/
def execSample1 (s : State) : Host.Outcome State Fault Refusal :=
  .next (s.setRegs (s.regs.sample true))

end Sys2Proof.Machine
end

