-- ==== Sys2Proof/Machine/Reset.lean ====
section
/-! DEFINITION. The reset slot: `RESET` (70_reset_and_hazards.md rule R160). -/

namespace Sys2Proof.Machine

/-- `RESET`: every register takes its reset value, whatever it held; `rdata` is 0x00 and `irq` the old
`WAKE` in the cycle of the reset (R160). The parameters and the inputs to come are not the block's
state and stay (log entry 18). -/
def execReset (s : State) : Host.Outcome State Fault Refusal :=
  .next ((s.drive 0x00#8).setRegs (Regs.reset s.cfg))

end Sys2Proof.Machine
end

