-- ==== Sys2Proof/Machine/Tick.lean ====
section
/-! DEFINITION. The tick slot: `TICK` (40_tick_accumulator.md rule R70). -/

namespace Sys2Proof.Machine

/-- `TICK` (R70): writes `CLOCK`, `SUB` and, at a wrap, `START`; nothing else (R81). -/
def execTick (s : State) : Host.Outcome State Fault Refusal :=
  .next (s.setRegs (s.regs.tick s.cfg))

end Sys2Proof.Machine
end

