-- ==== Sys2Proof/Machine/Dispatch.lean ====
section
/-! DEFINITION. One arm per operation, each one call of its meaning. -/

namespace Sys2Proof.Machine

def exec (i : Instr) (s : State) : Host.Outcome State Fault Refusal :=
  match i with
  | .reset => Sys2Proof.Machine.execReset s
  | .tick => Sys2Proof.Machine.execTick s
  | .sample0 => Sys2Proof.Machine.execSample0 s
  | .sample1 => Sys2Proof.Machine.execSample1 s
  | .idle => Sys2Proof.Machine.execIdle s
  | .nop => Sys2Proof.Machine.execNop s
  | .snap => Sys2Proof.Machine.execSnap s
  | .clrw => Sys2Proof.Machine.execClrw s
  | .rdStatus => Sys2Proof.Machine.execRdStatus s
  | .rdCmd => Sys2Proof.Machine.execRdCmd s
  | .rdSub => Sys2Proof.Machine.execRdSub s
  | .rdRsv3 => Sys2Proof.Machine.execRdRsv3 s
  | .rdSnap0 => Sys2Proof.Machine.execRdSnap0 s
  | .rdSnap1 => Sys2Proof.Machine.execRdSnap1 s
  | .rdSnap2 => Sys2Proof.Machine.execRdSnap2 s
  | .rdSnap3 => Sys2Proof.Machine.execRdSnap3 s
  | .rdStart0 => Sys2Proof.Machine.execRdStart0 s
  | .rdStart1 => Sys2Proof.Machine.execRdStart1 s
  | .rdStart2 => Sys2Proof.Machine.execRdStart2 s
  | .rdStart3 => Sys2Proof.Machine.execRdStart3 s
  | .rdDecH => Sys2Proof.Machine.execRdDecH s
  | .rdDecM => Sys2Proof.Machine.execRdDecM s
  | .rdDecS => Sys2Proof.Machine.execRdDecS s
  | .rdRsvf => Sys2Proof.Machine.execRdRsvf s
  | .wrIgn addr wdata => Sys2Proof.Machine.execWrIgn addr wdata s

end Sys2Proof.Machine
end

