-- ==== Sys2Proof/Machine/Cycle.lean ====
section
/-! DEFINITION. One clock cycle: the vector it is given and the operations it runs in order
(30_encoding.md rule R53). -/

namespace Sys2Proof.Machine

/-- The vector of the coming cycle: the next one listed, or, where none is listed, one that the
environment drives freely (R20: the input vector stands where an ISA fetches; log entries 1 and 2). -/
def State.nextInput (s : State) : InVec := s.inputs.headD (Config.freeInput s.drawn)

/-- The state once that vector has been taken. -/
def State.takeInput (s : State) : State :=
  { s with
    inputs := s.inputs.tail
    drawn := if s.inputs.isEmpty then s.drawn + 1 else s.drawn }

/-- The operations of a cycle one after another; a stop of one ends the cycle. -/
def runOps : List Instr → State → Host.Outcome State Fault Refusal
  | [], s => .next s
  | i :: rest, s =>
    match exec i s with
    | .next t => runOps rest t
    | .fault f => .fault f
    | .refused r => .refused r

/-- `Step(s, IN)` for a given vector (R53): `RESET` alone, or the host operation, then the tick, then
the pin sample. -/
def runCycle (v : InVec) (s : State) : Host.Outcome State Fault Refusal := runOps (decode v).ops s

/-- `s` with the vector `v` as that of its coming cycle, in place of the one listed first. -/
def State.placeInput (s : State) (v : InVec) : State := { s with inputs := v :: s.inputs.tail }

end Sys2Proof.Machine
end

