-- ==== Sys2Proof/Machine/Step.lean ====
section
/-! DEFINITION. The step function: one clock cycle of a block with legal parameters
(30_encoding.md rule R53, 20_memory.md rule R39). -/

namespace Sys2Proof.Machine

/-- One rising edge of `clk`. A block whose parameters break a constraint of R6 is refused
(93_implementation_defined.md U6, log entry 5). -/
def step (s : State) : Host.Outcome State Fault Refusal :=
  if s.cfg.Legal then runCycle s.nextInput s.takeInput else .refused .illFormedConfig

/-- `s` with the vector whose bits are `w` as the input of its next cycle (log entry 7). -/
def State.withFetchWord (s : State) (_nbits w : Nat) : State := s.placeInput (BitVec.ofNat 17 w)

end Sys2Proof.Machine
end

