-- ==== Sys2Proof/Machine/Block.lean ====
section
/-! DEFINITION. The block by itself, in the spec's own form `Step(s, IN)` (30_encoding.md rule R53): the
parameters and the input vector are arguments, the outputs are results, and what passes from cycle to
cycle is the eight registers and nothing else (10_state.md rule R18). -/

namespace Sys2Proof.Machine

/-- `HostOp(s, IN)`: a write acts as R34 says; a read and an idle slot change nothing (R33, R102). -/
def Regs.hostOp (v : InVec) (r : Regs) : Regs :=
  if vecSel v && vecWe v then memWrite r (vecAddr v) (vecWdata v) else r

/-- The outputs, functions of the state at the start of the cycle and its inputs (R18, R33, R134). -/
def Regs.outputs (v : InVec) (r : Regs) : Output where
  irq := r.wake
  rdata := if !vecRst v && vecSel v && !vecWe v then memRead r (vecAddr v) else 0x00#8

/-- The next state of `Step(s, IN)` (R53): reset, or host operation, tick and pin sample in turn. -/
def Regs.next (c : Config) (v : InVec) (r : Regs) : Regs :=
  if vecRst v then Regs.reset c
  else
    let s1 := r.hostOp v
    let s2 := if vecTick v then s1.tick c else s1
    s2.sample (vecPin v)

/-- `Step(s, IN)`, for the block built with the parameters `c` (R53). -/
def blockStep (c : Config) (r : Regs) (v : InVec) : Regs × Output := (r.next c v, r.outputs v)

/-- The block over the vectors of several cycles: the registers at the end and the outputs of each
cycle in turn. -/
def blockRun (c : Config) : Regs → List InVec → Regs × List Output
  | r, [] => (r, [])
  | r, v :: vs =>
    let rest := blockRun c (blockStep c r v).1 vs
    (rest.1, (blockStep c r v).2 :: rest.2)

end Sys2Proof.Machine
end

