-- ==== Sys2Proof/Machine/Consumer.lean ====
section
/-! DEFINITION. The host that the source prescribes: the consumer's wake cycle and its sleep-arm sequence
(60_exceptions.md rules R141, R142), as a small agent that drives the block's host slot. It is no
part of the block; log entries 13 and 21 name what it fixes. -/

namespace Sys2Proof.Machine

/-- Where the consumer is in its loop. -/
inductive Phase where
  /-- R142 (1): look at `STATUS` -/
  | checkStatus
  /-- R142 (2): one snapshot -/
  | snap
  /-- R142 (3): the decoded digits, a byte a cycle -/
  | readH
  | readM
  | readS
  /-- R142 (4): the display sequence, which stands for one cycle -/
  | display
  /-- R142 (5): clear the flag -/
  | clear
  /-- R141: disable interrupts, arm, enable, sleep, disarm -/
  | disableInts
  | armSleep
  | enableInts
  | asleep
  | disarm
  deriving DecidableEq, Repr

/-- The consumer's own state. -/
structure Consumer where
  phase : Phase
  intsEnabled : Bool
  sleepArmed : Bool
  decH : Byte
  decM : Byte
  decS : Byte
  /-- how many display sequences have run -/
  displays : Nat
  deriving DecidableEq, Repr

/-- The host operation of a phase. -/
def Phase.hostOp : Phase → Instr
  | .checkStatus => .rdStatus
  | .snap => .snap
  | .readH => .rdDecH
  | .readM => .rdDecM
  | .readS => .rdDecS
  | .display => .idle
  | .clear => .clrw
  | .disableInts => .idle
  | .armSleep => .idle
  | .enableInts => .idle
  | .asleep => .idle
  | .disarm => .idle

/-- The consumer after a cycle whose outputs were `out`; `other` says that an interrupt from
elsewhere is pending. Sleep is released by any enabled interrupt (R141). DESIGN CHOICE (log entry 21): the
wake-up input is sensitive to the level of `irq`, which R173 leaves to the host. -/
def Consumer.observe (k : Consumer) (out : Output) (other : Bool) : Consumer :=
  match k.phase with
  | .checkStatus =>
    if out.rdata.getLsbD 0 then { k with phase := .snap } else { k with phase := .disableInts }
  | .snap => { k with phase := .readH }
  | .readH => { k with phase := .readM, decH := out.rdata }
  | .readM => { k with phase := .readS, decM := out.rdata }
  | .readS => { k with phase := .display, decS := out.rdata }
  | .display => { k with phase := .clear, displays := k.displays + 1 }
  | .clear => { k with phase := .disableInts }
  | .disableInts => { k with phase := .armSleep, intsEnabled := false }
  | .armSleep => { k with phase := .enableInts, sleepArmed := true }
  | .enableInts => { k with phase := .asleep, intsEnabled := true }
  | .asleep =>
    if k.intsEnabled && (out.irq || other) then { k with phase := .disarm } else k
  | .disarm => { k with phase := .checkStatus, sleepArmed := false }

/-- What the other agents do in a cycle: the timer, the pin, and other interrupts of the host. -/
structure Surroundings where
  tick : Bool
  pin : Bool
  other : Bool
  deriving DecidableEq, Repr

/-- One cycle of consumer and block together. -/
def turn (e : Surroundings) (k : Consumer) (s : State) :
    Host.Outcome (Consumer × State) Fault Refusal :=
  match step (s.placeInput (encodeCycle (.run k.phase.hostOp e.tick e.pin))) with
  | .next t => .next (k.observe t.out e.other, t)
  | .fault f => .fault f
  | .refused r => .refused r

/-- The cycles of a list one after another. -/
def turns : List Surroundings → Consumer → State → Host.Outcome (Consumer × State) Fault Refusal
  | [], k, s => .next (k, s)
  | e :: rest, k, s =>
    match turn e k s with
    | .next (k', t) => turns rest k' t
    | .fault f => .fault f
    | .refused r => .refused r

end Sys2Proof.Machine
end

