-- ==== Sys2Proof/Machine/Rtl.lean ====
section
/-! DEFINITION. The register-transfer form of the block (30_encoding.md rule R53): every register's
next value from the old values of all registers and the raw wires of the vector, with no decoder and
no order of operations. It is a second description, to be compared with `step`. -/

namespace Sys2Proof.Machine

/-- The wires say that the command byte `op` is written to `CMD`. -/
def wireCommand (v : InVec) (op : Byte) : Bool :=
  vecSel v && vecWe v && vecAddr v == 0x1#4 && vecWdata v == op

/-- The wires say that the tick of this cycle wraps. -/
def wireWrap (c : Config) (r : Regs) (v : InVec) : Bool := vecTick v && r.tickWraps c

/-- Every register's next value (R53, R136: on `WAKE` set has priority over clear). -/
def rtlRegs (c : Config) (r : Regs) (v : InVec) : Regs :=
  if vecRst v then Regs.reset c
  else
    { clock :=
        if wireWrap c r v then 0#32
        else if vecTick v then BitVec.ofNat 32 (r.tickSum c)
        else r.clock
      sub := if vecTick v then BitVec.ofNat 8 (r.tickCount c) else r.sub
      start := if wireWrap c r v then 0#32 else r.start
      wake := r.sy2 != r.prev || (r.wake && !wireCommand v 0x02#8)
      snap := if wireCommand v 0x01#8 then r.clock else r.snap
      sy1 := vecPin v
      sy2 := r.sy1
      prev := r.sy2 }

/-- The outputs in the cycle (R33, R53, R134). -/
def rtlOut (r : Regs) (v : InVec) : Output :=
  { irq := r.wake
    rdata := if !vecRst v && vecSel v && !vecWe v then memRead r (vecAddr v) else 0x00#8 }

end Sys2Proof.Machine
end

