-- ==== Sys2Proof/Machine/Trace.lean ====
section
/-! DEFINITION. Traces: the text syntax for sequences of cycles and its assembler (30_encoding.md rules
R61, R62). The spec's grammar is followed as log entry 12 reads it. -/

namespace Sys2Proof.Machine

/-! ## Abstract syntax -/

/-- The register names of `RD` (R61), in the order of their addresses. -/
inductive RegName where
  | status | cmd | sub | rsv3
  | snap0 | snap1 | snap2 | snap3
  | start0 | start1 | start2 | start3
  | decH | decM | decS | rsvf
  deriving DecidableEq, Repr

/-- The address that `RD reg` encodes (R31, R61). -/
def RegName.addr : RegName → Addr
  | .status => 0x0#4
  | .cmd => 0x1#4
  | .sub => 0x2#4
  | .rsv3 => 0x3#4
  | .snap0 => 0x4#4
  | .snap1 => 0x5#4
  | .snap2 => 0x6#4
  | .snap3 => 0x7#4
  | .start0 => 0x8#4
  | .start1 => 0x9#4
  | .start2 => 0xA#4
  | .start3 => 0xB#4
  | .decH => 0xC#4
  | .decM => 0xD#4
  | .decS => 0xE#4
  | .rsvf => 0xF#4

/-- A `hostop` of the grammar. -/
inductive HostItem where
  | nop
  | snap
  | clrw
  | rd (reg : RegName)
  | wr (addr : Addr) (value : Byte)
  deriving DecidableEq, Repr

/-- A cycle line: at most one `RESET`, one `TICK`, one `PIN` item and one host operation (R61). -/
structure CycleLine where
  reset : Bool := false
  tick : Bool := false
  pin : Option Bool := none
  host : Option HostItem := none
  deriving DecidableEq, Repr

/-- A line: a cycle or a pseudo-operation (R62). -/
inductive TraceLine where
  | cycle (line : CycleLine)
  | idle (n : Nat)
  | ticks (n : Nat)
  | rd32Snap
  | rd32Start
  | rdTime
  deriving DecidableEq, Repr

/-! ## The assembler -/

/-- A pseudo-operation's cycle lines (R62). -/
def TraceLine.expand : TraceLine → List CycleLine
  | .cycle line => [line]
  | .idle n => List.replicate n {}
  | .ticks n => List.replicate n { tick := true }
  | .rd32Snap => [.snap0, .snap1, .snap2, .snap3].map fun reg => { host := some (.rd reg) }
  | .rd32Start => [.start0, .start1, .start2, .start3].map fun reg => { host := some (.rd reg) }
  | .rdTime => [.decH, .decM, .decS].map fun reg => { host := some (.rd reg) }

/-- The vector of a cycle line at the current pin level (R61). -/
def CycleLine.vector (line : CycleLine) (level : Bool) : InVec :=
  match line.host with
  | none => vecOf line.reset line.tick level false false 0x0#4 0x00#8
  | some .nop => vecOf line.reset line.tick level true true 0x1#4 0x00#8
  | some .snap => vecOf line.reset line.tick level true true 0x1#4 0x01#8
  | some .clrw => vecOf line.reset line.tick level true true 0x1#4 0x02#8
  | some (.rd reg) => vecOf line.reset line.tick level true false reg.addr 0x00#8
  | some (.wr addr value) => vecOf line.reset line.tick level true true addr value

/-- The vectors of cycle lines; `PIN b` sets the level from its cycle on (R61). -/
def assembleCycles : List CycleLine → Bool → List InVec
  | [], _ => []
  | line :: rest, level =>
    line.vector (line.pin.getD level) :: assembleCycles rest (line.pin.getD level)

/-- The vectors of a trace; the current pin level is initially `PIN_IDLE` (R61). -/
def assemble (c : Config) (trace : List TraceLine) : List InVec :=
  assembleCycles (trace.flatMap TraceLine.expand) c.pinIdle

/-! ## The text form -/

/-- The pieces of a text between the separators `sep`. -/
def splitAtChar (sep : Char) : List Char → List (List Char)
  | [] => [[]]
  | c :: rest =>
    if c = sep then [] :: splitAtChar sep rest
    else
      match splitAtChar sep rest with
      | [] => [[c]]
      | piece :: more => (c :: piece) :: more

/-- A line without its comment, which runs from `--` to the end (R61). -/
def dropComment : List Char → List Char
  | [] => []
  | '-' :: '-' :: _ => []
  | c :: rest => c :: dropComment rest

/-- The words of a text, separated by spaces. -/
def wordsOf (text : List Char) : List String :=
  ((splitAtChar ' ' text).filter fun piece => !piece.isEmpty).map String.ofList

/-- A hexadecimal digit as the grammar's ranges write it. -/
def hexDigit (c : Char) : Option Nat :=
  if '0' ≤ c ∧ c ≤ '9' then some (c.toNat - '0'.toNat)
  else if 'A' ≤ c ∧ c ≤ 'F' then some (c.toNat - 'A'.toNat + 10)
  else none

/-- `addr`: `0x0` to `0xF`. -/
def parseAddr (text : String) : Option Addr :=
  match text.toList with
  | ['0', 'x', d] => (hexDigit d).map fun n => BitVec.ofNat 4 n
  | _ => none

/-- `byte`: `0x00` to `0xFF`. -/
def parseByte (text : String) : Option Byte :=
  match text.toList with
  | ['0', 'x', d, e] => do
    let hi ← hexDigit d
    let lo ← hexDigit e
    return BitVec.ofNat 8 (16 * hi + lo)
  | _ => none

/-- The digits of a decimal number, after the value `acc` of those before them. -/
def parseDigits : List Char → Nat → Option Nat
  | [], acc => some acc
  | c :: rest, acc =>
    if '0' ≤ c ∧ c ≤ '9' then parseDigits rest (10 * acc + (c.toNat - '0'.toNat)) else none

/-- `n`, a positive decimal number (R62). -/
def parseCount (text : String) : Option Nat :=
  match text.toList with
  | [] => none
  | digits => (parseDigits digits 0).filter fun n => 0 < n

/-- `reg` (R61). -/
def parseReg (text : String) : Option RegName :=
  match text with
  | "STATUS" => some .status
  | "CMD" => some .cmd
  | "SUB" => some .sub
  | "RSV3" => some .rsv3
  | "SNAP0" => some .snap0
  | "SNAP1" => some .snap1
  | "SNAP2" => some .snap2
  | "SNAP3" => some .snap3
  | "START0" => some .start0
  | "START1" => some .start1
  | "START2" => some .start2
  | "START3" => some .start3
  | "DEC_H" => some .decH
  | "DEC_M" => some .decM
  | "DEC_S" => some .decS
  | "RSVF" => some .rsvf
  | _ => none

/-- `hostop` (R61). -/
def parseHost : List String → Option HostItem
  | ["NOP"] => some .nop
  | ["SNAP"] => some .snap
  | ["CLRW"] => some .clrw
  | ["RD", reg] => (parseReg reg).map .rd
  | ["WR", addr, value] => do
    let a ← parseAddr addr
    let v ← parseByte value
    return .wr a v
  | _ => none

/-- One more item of a cycle line; a second of the same kind is refused (R61). -/
def CycleLine.addItem (line : CycleLine) : List String → Option CycleLine
  | ["RESET"] => if line.reset then none else some { line with reset := true }
  | ["TICK"] => if line.tick then none else some { line with tick := true }
  | ["PIN", "0"] => if line.pin.isSome then none else some { line with pin := some false }
  | ["PIN", "1"] => if line.pin.isSome then none else some { line with pin := some true }
  | item => do
    let op ← parseHost item
    if line.host.isSome then none else return { line with host := some op }

/-- The items of a cycle line, in any order. -/
def parseItems : List (List String) → CycleLine → Option CycleLine
  | [], line => some line
  | item :: rest, line => (line.addItem item).bind (parseItems rest)

/-- A line that holds words (R61, R62). -/
def parseLine (text : List Char) : Option TraceLine :=
  match wordsOf text with
  | ["-"] => some (.cycle {})
  | ["IDLE", n] => (parseCount n).map .idle
  | ["TICKS", n] => (parseCount n).map .ticks
  | ["RD32", "SNAP"] => some .rd32Snap
  | ["RD32", "START"] => some .rd32Start
  | ["RDTIME"] => some .rdTime
  | _ => (parseItems ((splitAtChar ',' text).map wordsOf) {}).map .cycle

/-- The lines of a text; a line with nothing but a comment stands for no cycle. -/
def parseLines : List (List Char) → Option (List TraceLine)
  | [] => some []
  | text :: rest => do
    let more ← parseLines rest
    if (wordsOf (dropComment text)).isEmpty then return more
    else
      let line ← parseLine (dropComment text)
      return line :: more

/-- A trace from its text (R61). -/
def parseTrace (text : String) : Option (List TraceLine) :=
  parseLines (splitAtChar '\n' text.toList)

end Sys2Proof.Machine
end

