-- ==== Sys2Proof/Machine/Environment.lean ====
section
/-! DEFINITION. What the agents around the block may do: the pin at a clock edge (41_wake_flag.md rule
R86), the inputs of a well started run (70_reset_and_hazards.md rule R164), and host programs that a
claim may lean on (93_implementation_defined.md U2, U5). None of it is behaviour of the block. -/

namespace Sys2Proof.Machine

/-- The pin around one capturing edge (R86). -/
inductive PinAtEdge where
  /-- at the level `b` throughout the sampling window -/
  | stable (b : Bool)
  /-- changing from `old` to the other level within the window -/
  | changing (old : Bool)
  deriving DecidableEq, Repr

/-- The levels that the first stage may capture: the stable level, or either one of a change (R86). -/
def PinAtEdge.admits : PinAtEdge → Bool → Bool
  | .stable b, captured => captured == b
  | .changing _, _ => true

/-- The sequences of captured levels consistent with a waveform (R86). -/
def admitsAll : List PinAtEdge → List Bool → Bool
  | [], [] => true
  | p :: pins, b :: captured => p.admits b && admitsAll pins captured
  | _, _ => false

/-- The first cycle of a run is a reset (R164, U1). -/
def startsWithReset : List InVec → Bool
  | [] => false
  | v :: _ => vecRst v

/-- The pin is captured at `PIN_IDLE` in every cycle (R164, R176). -/
def pinRests (c : Config) (inputs : List InVec) : Bool :=
  inputs.all fun v => vecPin v == c.pinIdle

/-- An operation that a host program may use without leaning on a reserved opcode or on an access to
a reserved or wrong-direction address (U2, U5). The block runs the others all the same (R58, R38). -/
def Instr.cautious : Instr → Bool
  | .rdCmd => false
  | .rdRsv3 => false
  | .rdRsvf => false
  | .wrIgn _ _ => false
  | _ => true

/-- A cycle whose host operation is cautious. -/
def Cycle.cautious : Cycle → Bool
  | .reset => true
  | .run host _ _ => Instr.cautious host

/-- A host program that a cautious model admits (U2, U5). -/
def cautiousInputs (inputs : List InVec) : Bool :=
  inputs.all fun v => Cycle.cautious (decode v)

end Sys2Proof.Machine
end

