-- ==== Sys2Proof/Safety.lean ====
section
/-! DEFINITION. What holds of a safe run: the invariants at rest (10_state.md rule R17), in the terms that
the statements use, and runs over a given list of inputs. -/

namespace Sys2Proof.Machine

/-- The invariants at rest of R17 (i) to (iv), for a block with the parameters `c`. -/
structure Regs.AtRest (c : Config) (r : Regs) : Prop where
  clock_lt : r.clock.toNat < c.wrapMs
  sub_lt : r.sub.toNat < c.corrPeriod
  snap_lt : r.snap.toNat < c.wrapMs
  start_eq : r.start.toNat = c.initMs ∨ r.start.toNat = 0

/-- A safe state: legal parameters (R6), and registers at rest. -/
structure State.Safe (s : State) : Prop where
  legal : s.cfg.Legal
  atRest : s.regs.AtRest s.cfg

/-- `s` with the vectors of the coming cycles listed, whatever was listed before. -/
def State.withInputs (s : State) (inputs : List InVec) : State := { s with inputs := inputs }

/-- The run of a state over all the vectors given to it, one step each. -/
def runInputs (s : State) (inputs : List InVec) : Host.Outcome State Fault Refusal :=
  Sys2Proof.core.run inputs.length (s.withInputs inputs)

/-- A state that a run from reset reaches, of a block with the parameters `c` (R17). -/
def Reachable (c : Config) (t : State) : Prop :=
  ∃ inputs : List InVec, runInputs (State.resetOf c) inputs = .next t

/-- The vector's host slot carries the operation `i`. -/
def hostOpIs (v : InVec) (i : Instr) : Bool := decodeSlot .host v == some i

/-- The vector whose only operations are a tick, the pin sample of `b` and an idle host. -/
def tickVector (b : Bool) : InVec := encodeCycle (.run .idle true b)

/-- The vector with nothing in it but the pin sample of `b`. -/
def pinVector (b : Bool) : InVec := encodeCycle (.run .idle false b)

end Sys2Proof.Machine
end

