-- ==== Sys2Proof/Certificates/Slice0/Obligations.lean ====
section
/-! DEFINITION. The statements for the provers, from the numbered rules of spec/. In every statement
`vecRst v = false` says that the cycle is no reset, `s.placeInput v` that `v` is the vector of the
coming cycle, and `s.cfg.Legal` that the parameters keep the constraints of R6. -/

open Sys2Proof Sys2Proof.Machine

/-! ## Encoding and decoding -/

/-- Vectors written out from R51 and R56 (95_test_vectors.md section 2.6) select the operations that
section lists. -/
def Obligations.WrittenVectorsSelectTheirOperations : Prop :=
  (decode 0x00000#17).ops = [.idle, .sample0] ∧
  (decode 0x04000#17).ops = [.idle, .sample1] ∧
  (decode 0x08000#17).ops = [.idle, .tick, .sample0] ∧
  (decode 0x0F101#17).ops = [.snap, .tick, .sample1] ∧
  (decode 0x03100#17).ops = [.nop, .sample0] ∧
  (decode 0x03102#17).ops = [.clrw, .sample0] ∧
  (decode 0x03103#17).ops = [.wrIgn 0x1#4 0x03#8, .sample0] ∧
  (decode 0x03202#17).ops = [.wrIgn 0x2#4 0x02#8, .sample0] ∧
  (decode 0x03001#17).ops = [.wrIgn 0x0#4 0x01#8, .sample0] ∧
  (decode 0x01102#17).ops = [.idle, .sample0] ∧
  (decode 0x02CFF#17).ops = [.rdDecH, .sample0] ∧
  (decode 0x0A000#17).ops = [.rdStatus, .tick, .sample0] ∧
  (decode 0x06F00#17).ops = [.rdRsvf, .sample1] ∧
  (decode 0x10000#17).ops = [.reset] ∧
  (decode 0x1FFFF#17).ops = [.reset]

/-- Every well-formed operation, with every operand, is what its own slot of its encoding decodes to. -/
def Obligations.SlotDecodeOfEncodeIsTheOperation : Prop :=
  ∀ i : Instr, i.wf = true → decodeSlot i.slot (encode i) = some i

/-- Every well-formed cycle is what its vector decodes to: the four slots do not disturb each other. -/
def Obligations.CycleDecodeOfEncodeIsTheCycle : Prop :=
  ∀ c : Cycle, c.wf = true → decode (encodeCycle c) = c

/-- Every vector decodes to a well-formed cycle, and encoding that cycle again gives a vector that
differs from it in ignored bits only, and that selects the same. -/
def Obligations.EncodeOfDecodeDiffersOnlyInIgnoredBits : Prop :=
  ∀ v : InVec, (decode v).wf = true ∧ sameButIgnored v (encodeCycle (decode v)) = true ∧
    decode (encodeCycle (decode v)) = decode v

/-- R56: in every slot of every vector, the first row of the opcode map that matches names the
operation decoded there, and no row matches where nothing is decoded. -/
def Obligations.FirstMatchingRowNamesTheDecodedOperation : Prop :=
  ∀ (sl : Slot) (v : InVec),
    (lookupRow sl v).map OpcodeRow.mnemonic = (decodeSlot sl v).map Instr.mnemonic

/-- The rows of R56 overlap only in the catch-all: the rows of a slot that match a vector are none, one
row, or the row of one of the three commands and that of `WR.IGN`. -/
def Obligations.OpcodeRowsOverlapOnlyInTheCatchAll : Prop :=
  ∀ (sl : Slot) (v : InVec),
    ((matchingRows sl v).map OpcodeRow.mnemonic).length ≤ 1 ∨
    (matchingRows sl v).map OpcodeRow.mnemonic = ["NOP", "WR.IGN"] ∨
    (matchingRows sl v).map OpcodeRow.mnemonic = ["SNAP", "WR.IGN"] ∨
    (matchingRows sl v).map OpcodeRow.mnemonic = ["CLRW", "WR.IGN"]

/-- Two vectors decode alike exactly when they differ in ignored bits only (R59), and then a step does
the same with either. -/
def Obligations.VectorsThatDifferInIgnoredBitsHaveTheSameEffect : Prop :=
  ∀ v w : InVec, (decode v = decode w ↔ sameButIgnored v w = true) ∧
    (sameButIgnored v w = true → ∀ s : State, step (s.placeInput v) = step (s.placeInput w))

/-- R52: with `rst = 0` exactly one host and one pin operation are selected, and `TICK` or not, in the
order in which the step applies them; with `rst = 1` nothing but `RESET`. -/
def Obligations.EveryCycleSelectsOneHostAndOnePinOperation : Prop :=
  ∀ v : InVec,
    (vecRst v = true →
      (decode v).ops = [.reset] ∧ decodeSlot .reset v = some .reset ∧ decodeSlot .tick v = none ∧
        decodeSlot .pin v = none ∧ decodeSlot .host v = none) ∧
    (vecRst v = false → decodeSlot .reset v = none ∧
      ∃ h p : Instr, h.slot = .host ∧ h.wf = true ∧ (p = .sample0 ∨ p = .sample1) ∧
        decodeSlot .host v = some h ∧ decodeSlot .pin v = some p ∧
        (vecTick v = true → decodeSlot .tick v = some .tick ∧ (decode v).ops = [h, .tick, p]) ∧
        (vecTick v = false → decodeSlot .tick v = none ∧ (decode v).ops = [h, p]))

/-! ## The step -/

/-- A step of a legal block runs the operations that the vector of its cycle decodes to, one after
another: the vector listed first, or, where none is listed (log entry 2), a free one. -/
def Obligations.StepRunsTheDecodedOperations : Prop :=
  ∀ s : State, s.cfg.Legal →
    (∀ (v : InVec) (rest : List InVec), s.inputs = v :: rest →
      step s = runOps (decode v).ops { s with inputs := rest }) ∧
    (s.inputs = [] →
      step s = runOps (decode (Config.freeInput s.drawn)).ops { s with drawn := s.drawn + 1 })

/-- The word that the table names an operation by (log entries 6 and 7): the operation is one that its
cycle runs, and the next step of a legal block runs that cycle. -/
def Obligations.TableWordIsRunByTheNextStep : Prop :=
  ∀ (s : State) (nbits w : Nat) (i : Instr), s.cfg.Legal → decodeTableWord nbits w = some i →
    w < 2 ^ 17 ∧ i ∈ (decode (BitVec.ofNat 17 w)).ops ∧
    step (s.withFetchWord nbits w)
      = runOps (decode (BitVec.ofNat 17 w)).ops { s with inputs := s.inputs.tail }

/-- The model's choice (log entry 5): a step is refused exactly when a constraint of R6 is broken. -/
def Obligations.StepRefusesExactlyIllFormedConfigurations : Prop :=
  ∀ s : State, step s = .refused .illFormedConfig ↔ ¬ s.cfg.Legal

/-- No operation faults and none is refused: every one of them, with every operand, in every state,
answers a next state; and a step of a legal block does. -/
def Obligations.EveryOperationAndEveryLegalStepCompletes : Prop :=
  (∀ (i : Instr) (s : State), ∃ t, exec i s = .next t ∧
    t.cfg = s.cfg ∧ t.inputs = s.inputs ∧ t.drawn = s.drawn) ∧
  (∀ s : State, s.cfg.Legal → ∃ t, step s = .next t ∧ t.cfg = s.cfg)

/-- R53: a step equals the register-transfer form, in which every register's next value and both
outputs are computed from the old values of all registers and the wires of the vector. -/
def Obligations.StepIsTheRegisterTransferForm : Prop :=
  ∀ (s : State) (v : InVec) (rest : List InVec), s.cfg.Legal → s.inputs = v :: rest →
    step s = .next { s with
      regs := rtlRegs s.cfg s.regs v
      out := rtlOut s.regs v
      inputs := rest }

/-- R53 and R18: what a step does to the block is `Step(s, IN)` of R53, in which parameters and input are
arguments, outputs are results and the registers are all that is kept; around it the step only takes the
vector from the list and records the outputs (log entries 1, 3, 4). Over a run the registers are those of
the block run by itself, and the outputs recorded last are those of its last cycle. -/
def Obligations.StepIsTheBlocksOwnStepFunction : Prop :=
  (∀ (s : State) (v : InVec), s.cfg.Legal →
    step (s.placeInput v) = .next { s with
      regs := (blockStep s.cfg s.regs v).1
      out := (blockStep s.cfg s.regs v).2
      inputs := s.inputs.tail }) ∧
  ∀ (s : State) (vs : List InVec), s.cfg.Legal →
    ∃ t, runInputs s vs = .next t ∧ t.regs = (blockRun s.cfg s.regs vs).1 ∧ t.cfg = s.cfg ∧
      t.out = (blockRun s.cfg s.regs vs).2.getLastD s.out

/-- What a step does to the registers, and the outputs it gives, depend on the eight registers, the
parameters and the vector alone: the fields that are the model's own carry no state of the block. -/
def Obligations.OnlyRegistersParametersAndInputDetermineTheStep : Prop :=
  ∀ s t s' : State, s.regs = t.regs → s.cfg = t.cfg → s.nextInput = t.nextInput →
    step s = .next s' →
    ∃ t', step t = .next t' ∧ t'.regs = s'.regs ∧ t'.out = s'.out ∧ t'.cfg = s'.cfg

/-! ## Reset -/

/-- R160: the vectors that carry `RESET`; it loads every register whatever the state was, drives the old
`WAKE` and 0x00, and overrides every other slot of its cycle; holding it gives the same state again. -/
def Obligations.ResetLoadsEveryRegisterAndOverridesTheCycle : Prop :=
  (∀ v : InVec, decodeSlot .reset v = some .reset ↔ v &&& 0x10000#17 = 0x10000#17) ∧
  ∀ s : State, s.cfg.Legal →
    ∃ r : Regs, r.clock.toNat = s.cfg.initMs ∧ r.sub = 0x00#8 ∧ r.start.toNat = s.cfg.initMs ∧
      r.wake = false ∧ r.snap = 0#32 ∧ r.sy1 = s.cfg.pinIdle ∧ r.sy2 = s.cfg.pinIdle ∧
      r.prev = s.cfg.pinIdle ∧
      exec .reset s = .next { s with regs := r, out := ⟨s.regs.wake, 0x00#8⟩ } ∧
      (∀ v : InVec, vecRst v = true →
        step (s.placeInput v)
          = .next { s with
              regs := r, out := ⟨s.regs.wake, 0x00#8⟩, inputs := s.inputs.tail }) ∧
      (∀ (vs : List InVec) (t : State), vs ≠ [] → (∀ v ∈ vs, vecRst v = true) →
        runInputs s vs = .next t → t.regs = r)

/-- R161: the registers of the state right after reset, for any legal parameters, that it keeps the
invariants at rest, and that `irq` is 0 in the cycle after reset, whatever that cycle holds. -/
def Obligations.StateAfterResetHoldsTheInitialTime : Prop :=
  ∀ c : Config, c.Legal →
    (State.resetOf c).Safe ∧
    (State.resetOf c).regs.clock.toNat
      = ((c.initH * 3600) + (c.initM * 60) + c.initS) * 1000 ∧
    (State.resetOf c).regs.start.toNat
      = ((c.initH * 3600) + (c.initM * 60) + c.initS) * 1000 ∧
    (State.resetOf c).regs.sub = 0x00#8 ∧ (State.resetOf c).regs.snap = 0#32 ∧
    (State.resetOf c).regs.wake = false ∧ (State.resetOf c).regs.sy1 = c.pinIdle ∧
    (State.resetOf c).regs.sy2 = c.pinIdle ∧ (State.resetOf c).regs.prev = c.pinIdle ∧
    ∀ v : InVec, ∃ t, step ((State.resetOf c).placeInput v) = .next t ∧ t.out.irq = false

/-- The reset state of the model's own choice of parameters (log entry 4) is safe. -/
def Obligations.ResetStateOfTheStandardParametersIsSafe : Prop := State.reset.Safe

/-- A run whose first cycle is a reset ends with the registers of the run from `ResetState`, whatever the
registers held before it: no run depends on the unspecified state before the first reset (R162, U1). -/
def Obligations.RunsThatStartWithResetForgetTheStateBefore : Prop :=
  ∀ (s : State) (vs : List InVec), s.cfg.Legal → startsWithReset vs = true →
    ∃ t u, runInputs s vs = .next t ∧ runInputs (State.resetOf s.cfg) vs.tail = .next u ∧
      t.regs = u.regs

/-! ## Invariants at rest -/

/-- Every step from every safe state, reachable or not, leads to a safe state. -/
def Obligations.EveryStepKeepsTheInvariantsAtRest : Prop :=
  ∀ s t : State, s.Safe → step s = .next t → t.Safe

/-- R17: in every state reachable from reset under legal parameters the invariants (i) to (v) hold,
and once a wrap has occurred `START` is 0 until the next reset. -/
def Obligations.InvariantsAtRestHoldInEveryReachableState : Prop :=
  ∀ c : Config, c.Legal →
    (∀ t : State, Reachable c t →
      t.regs.clock.toNat < c.wrapMs ∧ t.regs.sub.toNat < c.corrPeriod ∧
      t.regs.snap.toNat < c.wrapMs ∧
      (t.regs.start.toNat = c.initMs ∨ t.regs.start.toNat = 0) ∧
      t.regs.clock.toNat < 86400000 ∧ t.regs.start.toNat < 86400000 ∧
      t.regs.snap.toNat < 86400000 ∧
      (decodeTime t.regs.clock.toNat).hours ≤ 23 ∧ (decodeTime t.regs.start.toNat).hours ≤ 23 ∧
      (decodeTime t.regs.snap.toNat).hours ≤ 23) ∧
    (∀ (before after : List InVec) (v : InVec) (s t : State),
      runInputs (State.resetOf c) before = .next s →
      vecRst v = false → vecTick v = true → s.regs.tickWraps c = true →
      (∀ w ∈ after, vecRst w = false) → runInputs s (v :: after) = .next t →
      t.regs.start = 0#32)

/-! ## The tick accumulator -/

/-- R70: the vectors that carry `TICK`, its result in natural numbers, at every state, and all that it
leaves alone. -/
def Obligations.TickAddsCorrectsAndWraps : Prop :=
  (∀ v : InVec, decodeSlot .tick v = some .tick ↔ v &&& 0x18000#17 = 0x08000#17) ∧
  ∀ s : State, s.cfg.Legal →
    let c1 := s.regs.clock.toNat + s.cfg.incMs
    let k1 := s.regs.sub.toNat + 1
    let c2 := if k1 ≥ s.cfg.corrPeriod then c1 + s.cfg.corrMs else c1
    let k2 := if k1 ≥ s.cfg.corrPeriod then 0 else k1
    ∃ t, exec .tick s = .next t ∧
      t.regs.clock.toNat = (if c2 ≥ s.cfg.wrapMs then 0 else c2) ∧
      t.regs.start.toNat = (if c2 ≥ s.cfg.wrapMs then 0 else s.regs.start.toNat) ∧
      t.regs.sub.toNat = k2 ∧
      t.regs.wake = s.regs.wake ∧ t.regs.snap = s.regs.snap ∧ t.regs.sy1 = s.regs.sy1 ∧
      t.regs.sy2 = s.regs.sy2 ∧ t.regs.prev = s.regs.prev ∧
      t.out = s.out ∧ t.cfg = s.cfg ∧ t.inputs = s.inputs ∧ t.drawn = s.drawn

/-- R78: `n` ticks of which none wraps (the last sum stays below `WRAP_MS`), in as many cycles as they may
take (R151: only their number counts) and whatever the host and the pin do, add `n * INC_MS` and one
correction per completed cycle. `CORR_PERIOD` of them from `SUB = 0` add `CORR_PERIOD * INC_MS + CORR_MS`,
and up to the last of them there is no correction. -/
def Obligations.DriftCorrectionLaw : Prop :=
  ∀ (s : State) (vs : List InVec), s.cfg.Legal → s.regs.sub.toNat < s.cfg.corrPeriod →
    (∀ v ∈ vs, vecRst v = false) →
    let n := (vs.filter vecTick).length
    let k := s.regs.sub.toNat
    s.regs.clock.toNat + n * s.cfg.incMs + (k + n) / s.cfg.corrPeriod * s.cfg.corrMs < s.cfg.wrapMs →
    ∃ t, runInputs s vs = .next t ∧
      t.regs.clock.toNat
        = s.regs.clock.toNat + n * s.cfg.incMs + (k + n) / s.cfg.corrPeriod * s.cfg.corrMs ∧
      t.regs.sub.toNat = (k + n) % s.cfg.corrPeriod ∧
      t.regs.start = s.regs.start ∧
      (k = 0 → n = s.cfg.corrPeriod →
        t.regs.clock.toNat = s.regs.clock.toNat + (s.cfg.corrPeriod * s.cfg.incMs + s.cfg.corrMs) ∧
        t.regs.sub.toNat = 0 ∧
        ∃ (before after : List InVec) (v : InVec) (u : State), vs = before ++ v :: after ∧
          vecTick v = true ∧ (∀ w ∈ after, vecTick w = false) ∧ runInputs s before = .next u ∧
          u.regs.clock.toNat = s.regs.clock.toNat + (s.cfg.corrPeriod - 1) * s.cfg.incMs ∧
          u.regs.sub.toNat = s.cfg.corrPeriod - 1)

/-- Between wraps `CLOCK` strictly increases, by `INC_MS` or `INC_MS + CORR_MS`; a wrap takes it to 0
from a transient value within `INC_MS + CORR_MS - 1` above the threshold (R79). -/
def Obligations.ClockIncreasesBetweenWraps : Prop :=
  ∀ s : State, s.cfg.Legal → s.regs.clock.toNat < s.cfg.wrapMs →
    ∃ t, exec .tick s = .next t ∧
      (s.regs.tickWraps s.cfg = false →
        s.regs.clock.toNat < t.regs.clock.toNat ∧ t.regs.clock.toNat < s.cfg.wrapMs ∧
        (t.regs.clock.toNat = s.regs.clock.toNat + s.cfg.incMs ∨
          t.regs.clock.toNat = s.regs.clock.toNat + s.cfg.incMs + s.cfg.corrMs)) ∧
      (s.regs.tickWraps s.cfg = true →
        t.regs.clock = 0#32 ∧ s.cfg.wrapMs ≤ s.regs.tickSum s.cfg ∧
        s.regs.tickSum s.cfg ≤ s.cfg.wrapMs + s.cfg.incMs + s.cfg.corrMs - 1)

/-- A day ends: in any run without reset whose ticks number at least `WRAP_MS / INC_MS`, whatever their
spacing and the other slots, some tick wraps (R79, R151). -/
def Obligations.EnoughTicksAlwaysReachAWrap : Prop :=
  ∀ (s : State) (vs : List InVec), s.cfg.Legal → (∀ v ∈ vs, vecRst v = false) →
    s.cfg.wrapMs ≤ (vs.filter vecTick).length * s.cfg.incMs →
    ∃ (before after : List InVec) (v : InVec) (t u : State), vs = before ++ v :: after ∧
      runInputs s before = .next t ∧ vecTick v = true ∧ t.regs.tickWraps t.cfg = true ∧
      step (t.placeInput v) = .next u ∧ u.regs.clock = 0#32 ∧ u.regs.start = 0#32

/-- R75: in every cycle without reset `START` and `CLOCK` go to 0 together at a wrapping tick, and
`START` is otherwise as it was. -/
def Obligations.StartResetsInLockstepWithTheClock : Prop :=
  ∀ (s t : State) (v : InVec), vecRst v = false → step (s.placeInput v) = .next t →
    ((vecTick v = true ∧ s.regs.tickWraps s.cfg = true) →
      t.regs.clock = 0#32 ∧ t.regs.start = 0#32) ∧
    (¬ (vecTick v = true ∧ s.regs.tickWraps s.cfg = true) → t.regs.start = s.regs.start)

/-- Who writes each register (the table of R10): an operation that changes a register is one of those
the table names for it. -/
def Obligations.EachRegisterChangesOnlyByItsWriters : Prop :=
  ∀ (i : Instr) (s t : State), exec i s = .next t →
    (t.regs.clock ≠ s.regs.clock → i = .tick ∨ i = .reset) ∧
    (t.regs.sub ≠ s.regs.sub → i = .tick ∨ i = .reset) ∧
    (t.regs.start ≠ s.regs.start →
      (i = .tick ∧ s.regs.tickWraps s.cfg = true) ∨ i = .reset) ∧
    (t.regs.wake = true → s.regs.wake = false → i = .sample0 ∨ i = .sample1) ∧
    (t.regs.wake = false → s.regs.wake = true → i = .clrw ∨ i = .reset) ∧
    (t.regs.snap ≠ s.regs.snap → i = .snap ∨ i = .reset) ∧
    ((t.regs.sy1 ≠ s.regs.sy1 ∨ t.regs.sy2 ≠ s.regs.sy2 ∨ t.regs.prev ≠ s.regs.prev) →
      i = .sample0 ∨ i = .sample1 ∨ i = .reset)

/-! ## The wake flag -/

/-- R91, R92 with R85: the vectors that carry each pin sample, and its result, at every state. -/
def Obligations.PinSampleShiftsAndSetsWakeOnAnEdge : Prop :=
  (∀ v : InVec,
    (decodeSlot .pin v = some .sample0 ↔ v &&& 0x14000#17 = 0x00000#17) ∧
    (decodeSlot .pin v = some .sample1 ↔ v &&& 0x14000#17 = 0x04000#17)) ∧
  ∀ s : State,
    exec .sample0 s = .next { s with
      regs := { s.regs with
        prev := s.regs.sy2
        sy2 := s.regs.sy1
        sy1 := false
        wake := if s.regs.sy2 ≠ s.regs.prev then true else s.regs.wake } } ∧
    exec .sample1 s = .next { s with
      regs := { s.regs with
        prev := s.regs.sy2
        sy2 := s.regs.sy1
        sy1 := true
        wake := if s.regs.sy2 ≠ s.regs.prev then true else s.regs.wake } }

/-- R90: the vectors that carry `CLRW`; `WAKE` is 0 after it, `irq` shows the old one, and nothing else
changes. -/
def Obligations.ClrwClearsTheFlagAndNothingElse : Prop :=
  (∀ v : InVec, hostOpIs v .clrw = true ↔ v &&& 0x13FFF#17 = 0x03102#17) ∧
  ∀ s : State,
    exec .clrw s = .next { s with
      regs := { s.regs with wake := false }
      out := { irq := s.regs.wake, rdata := 0x00#8 } }

/-- R136: a `CLRW` in a cycle whose sample finds an edge leaves `WAKE` 1, whatever it was, and `irq` is
1 in the next cycle, whatever that one holds. -/
def Obligations.SetWinsOverClear : Prop :=
  ∀ (s : State) (v : InVec), s.cfg.Legal → hostOpIs v .clrw = true → s.regs.sy2 ≠ s.regs.prev →
    ∃ t, step (s.placeInput v) = .next t ∧ t.regs.wake = true ∧
      ∀ w : InVec, ∃ u, step (t.placeInput w) = .next u ∧ u.out.irq = true

/-- R95: in every step, `WAKE` falls only by a `CLRW` that no edge overtakes, or by `RESET`. -/
def Obligations.WakeFallsOnlyByClrwOrReset : Prop :=
  ∀ s t : State, step s = .next t → s.regs.wake = true → t.regs.wake = false →
    vecRst s.nextInput = true ∨
      (hostOpIs s.nextInput .clrw = true ∧ s.regs.sy2 = s.regs.prev)

/-- In every step, `WAKE` rises only by an edge that the pin sample finds: no tick and no host operation
sets it. -/
def Obligations.WakeRisesOnlyByAnEdge : Prop :=
  ∀ s t : State, step s = .next t → s.regs.wake = false → t.regs.wake = true →
    vecRst s.nextInput = false ∧ s.regs.sy2 ≠ s.regs.prev

/-- A change that is captured in one cycle or more, after three equal samples, sets the flag in the third
cycle counted from it and not before, whatever is captured after it, ticks and host operations
notwithstanding; `RD.STATUS` returns 0x01 from the fourth cycle (R88, R89). -/
def Obligations.CapturedChangeSetsWakeInTheThirdCycle : Prop :=
  ∀ (s : State) (b : Bool) (v0 v1 v2 v3 : InVec), s.cfg.Legal → s.regs.wake = false →
    s.regs.sy1 = b → s.regs.sy2 = b → s.regs.prev = b →
    vecRst v0 = false → vecRst v1 = false → vecRst v2 = false →
    vecPin v0 = (!b) → hostOpIs v3 .rdStatus = true →
    ∃ t0 t1 t2 t3, step (s.placeInput v0) = .next t0 ∧ step (t0.placeInput v1) = .next t1 ∧
      step (t1.placeInput v2) = .next t2 ∧ step (t2.placeInput v3) = .next t3 ∧
      t0.regs.wake = false ∧ t0.regs.sy1 ≠ t0.regs.sy2 ∧
      t1.regs.wake = false ∧ t1.regs.sy2 ≠ t1.regs.prev ∧
      t2.regs.wake = true ∧ t2.out.irq = false ∧
      t3.out.irq = true ∧ t3.out.rdata = 0x01#8

/-- A pin that changes within one sampling window and is then stable at the new level for two edges sets
the flag within four cycles, for every sequence of captured levels that R86 admits (93, U3). -/
def Obligations.ChangingPinSetsWakeForEveryAdmittedCapture : Prop :=
  ∀ (s : State) (b : Bool) (pins : List PinAtEdge) (vs : List InVec), s.cfg.Legal →
    s.regs.sy1 = b → s.regs.sy2 = b → s.regs.prev = b →
    (∀ v ∈ vs, vecRst v = false ∧ hostOpIs v .clrw = false) →
    admitsAll (.changing b :: .stable (!b) :: .stable (!b) :: pins) (vs.map vecPin) = true →
    4 ≤ vs.length →
    ∃ t, runInputs s vs = .next t ∧ t.regs.wake = true

/-- R93: over any run without `CLRW` and reset a set flag stays set and `irq` is 1 in every cycle,
whatever the pin, the ticks and the host reads do. -/
def Obligations.WakeIsStickyOverEveryRunWithoutClear : Prop :=
  ∀ (s : State) (vs : List InVec), s.cfg.Legal → s.regs.wake = true → vs ≠ [] →
    (∀ v ∈ vs, vecRst v = false ∧ hostOpIs v .clrw = false) →
    ∃ t, runInputs s vs = .next t ∧ t.regs.wake = true ∧ t.out.irq = true

/-- From reset, with the pin captured at `PIN_IDLE` in every cycle, no number of ticks and no host
operations raise the flag or, in any of those cycles, `irq` (R94, V-W7). -/
def Obligations.TicksAndHostNeverWakeWhileThePinRests : Prop :=
  ∀ (c : Config) (vs : List InVec), c.Legal → vs ≠ [] → (∀ v ∈ vs, vecRst v = false) →
    pinRests c vs = true →
    ∃ t, runInputs (State.resetOf c) vs = .next t ∧ t.regs.wake = false ∧ t.out.irq = false

/-- After a reset from any state, a pin held at the other level than `PIN_IDLE` sets the flag in the
third cycle, although it never moved (R176). -/
def Obligations.HeldPinWakesThreeCyclesAfterReset : Prop :=
  ∀ (s : State) (v v0 v1 v2 : InVec), s.cfg.Legal → vecRst v = true →
    vecRst v0 = false → vecRst v1 = false → vecRst v2 = false →
    vecPin v0 = (!s.cfg.pinIdle) → vecPin v1 = (!s.cfg.pinIdle) → vecPin v2 = (!s.cfg.pinIdle) →
    ∃ t u, runInputs s [v, v0, v1] = .next t ∧ t.regs.wake = false ∧
      runInputs s [v, v0, v1, v2] = .next u ∧ u.regs.wake = true

/-! ## The host slot -/

/-- R100, R102: the vectors that carry `NOP` and `IDLE`; they, and every ignored write with them, change
no register and return 0x00; `irq` is the flag. -/
def Obligations.NopIdleAndIgnoredWritesChangeNothing : Prop :=
  (∀ v : InVec,
    (hostOpIs v .nop = true ↔ v &&& 0x13FFF#17 = 0x03100#17) ∧
    (hostOpIs v .idle = true ↔ v &&& 0x12000#17 = 0x00000#17)) ∧
  ∀ (s : State) (addr : Addr) (wdata : Byte),
    exec .nop s = .next { s with out := { irq := s.regs.wake, rdata := 0x00#8 } } ∧
    exec .idle s = .next { s with out := { irq := s.regs.wake, rdata := 0x00#8 } } ∧
    exec (.wrIgn addr wdata) s = .next { s with out := { irq := s.regs.wake, rdata := 0x00#8 } }

/-- The vectors that carry `SNAP`, and its result (R101): all 32 bits of `CLOCK` in `SNAP`, and nothing
else changes, the flag least of all. -/
def Obligations.SnapCopiesTheClock : Prop :=
  (∀ v : InVec, hostOpIs v .snap = true ↔ v &&& 0x13FFF#17 = 0x03101#17) ∧
  ∀ s : State,
    exec .snap s = .next { s with
      regs := { s.regs with snap := s.regs.clock }
      out := { irq := s.regs.wake, rdata := 0x00#8 } }

/-- R137: a `SNAP` in a cycle with a tick receives `CLOCK` from before the tick, while `CLOCK` advances;
`RD.SUB` and `RD.START0..3` in such a cycle return the values before it. -/
def Obligations.SnapshotAndReadsSeeTheValueBeforeTheTick : Prop :=
  ∀ (s : State) (v : InVec), s.cfg.Legal → vecRst v = false → vecTick v = true →
    ∃ t u, step (s.placeInput v) = .next t ∧ exec .tick s = .next u ∧
      t.regs.clock = u.regs.clock ∧ t.regs.sub = u.regs.sub ∧ t.regs.start = u.regs.start ∧
      (hostOpIs v .snap = true → t.regs.snap = s.regs.clock) ∧
      (hostOpIs v .rdSub = true → t.out.rdata = s.regs.sub) ∧
      (hostOpIs v .rdStart0 = true → t.out.rdata.toNat = s.regs.start.toNat % 256) ∧
      (hostOpIs v .rdStart1 = true → t.out.rdata.toNat = s.regs.start.toNat / 2 ^ 8 % 256) ∧
      (hostOpIs v .rdStart2 = true → t.out.rdata.toNat = s.regs.start.toNat / 2 ^ 16 % 256) ∧
      (hostOpIs v .rdStart3 = true → t.out.rdata.toNat = s.regs.start.toNat / 2 ^ 24)

/-- R103, R104, R106 to R109 and R118, and the bytes of R105 and R110 (whose remarks on their range follow
from R17): the vectors that carry each of these reads and the byte that it returns, at every state; no
register changes. -/
def Obligations.ReadsOfFlagCountAndSnapshotReturnTheirBytes : Prop :=
  (∀ v : InVec,
    (hostOpIs v .rdStatus = true ↔ v &&& 0x13F00#17 = 0x02000#17) ∧
    (hostOpIs v .rdCmd = true ↔ v &&& 0x13F00#17 = 0x02100#17) ∧
    (hostOpIs v .rdSub = true ↔ v &&& 0x13F00#17 = 0x02200#17) ∧
    (hostOpIs v .rdRsv3 = true ↔ v &&& 0x13F00#17 = 0x02300#17) ∧
    (hostOpIs v .rdSnap0 = true ↔ v &&& 0x13F00#17 = 0x02400#17) ∧
    (hostOpIs v .rdSnap1 = true ↔ v &&& 0x13F00#17 = 0x02500#17) ∧
    (hostOpIs v .rdSnap2 = true ↔ v &&& 0x13F00#17 = 0x02600#17) ∧
    (hostOpIs v .rdSnap3 = true ↔ v &&& 0x13F00#17 = 0x02700#17) ∧
    (hostOpIs v .rdRsvf = true ↔ v &&& 0x13F00#17 = 0x02F00#17)) ∧
  ∀ s : State, ∃ b0 b2 b4 b5 b6 b7 : Byte,
    b0.toNat = (if s.regs.wake then 1 else 0) ∧ b2.toNat = s.regs.sub.toNat ∧
    b4.toNat = s.regs.snap.toNat % 256 ∧ b5.toNat = s.regs.snap.toNat / 2 ^ 8 % 256 ∧
    b6.toNat = s.regs.snap.toNat / 2 ^ 16 % 256 ∧ b7.toNat = s.regs.snap.toNat / 2 ^ 24 ∧
    exec .rdStatus s = .next { s with out := { irq := s.regs.wake, rdata := b0 } } ∧
    exec .rdCmd s = .next { s with out := { irq := s.regs.wake, rdata := 0x00#8 } } ∧
    exec .rdSub s = .next { s with out := { irq := s.regs.wake, rdata := b2 } } ∧
    exec .rdRsv3 s = .next { s with out := { irq := s.regs.wake, rdata := 0x00#8 } } ∧
    exec .rdSnap0 s = .next { s with out := { irq := s.regs.wake, rdata := b4 } } ∧
    exec .rdSnap1 s = .next { s with out := { irq := s.regs.wake, rdata := b5 } } ∧
    exec .rdSnap2 s = .next { s with out := { irq := s.regs.wake, rdata := b6 } } ∧
    exec .rdSnap3 s = .next { s with out := { irq := s.regs.wake, rdata := b7 } } ∧
    exec .rdRsvf s = .next { s with out := { irq := s.regs.wake, rdata := 0x00#8 } }

/-- R111 to R117: the vectors that carry each of these reads, the live bytes of `START`, and the packed
digits of a snapshot for which `Decode` has a meaning; for any other snapshot the digit reads complete
all the same, with some byte (the model's choice, log entry 8). -/
def Obligations.ReadsOfStartAndDigitsReturnTheirBytes : Prop :=
  (∀ v : InVec,
    (hostOpIs v .rdStart0 = true ↔ v &&& 0x13F00#17 = 0x02800#17) ∧
    (hostOpIs v .rdStart1 = true ↔ v &&& 0x13F00#17 = 0x02900#17) ∧
    (hostOpIs v .rdStart2 = true ↔ v &&& 0x13F00#17 = 0x02A00#17) ∧
    (hostOpIs v .rdStart3 = true ↔ v &&& 0x13F00#17 = 0x02B00#17) ∧
    (hostOpIs v .rdDecH = true ↔ v &&& 0x13F00#17 = 0x02C00#17) ∧
    (hostOpIs v .rdDecM = true ↔ v &&& 0x13F00#17 = 0x02D00#17) ∧
    (hostOpIs v .rdDecS = true ↔ v &&& 0x13F00#17 = 0x02E00#17)) ∧
  ∀ s : State, ∃ b8 b9 bA bB bC bD bE : Byte,
    b8.toNat = s.regs.start.toNat % 256 ∧ b9.toNat = s.regs.start.toNat / 2 ^ 8 % 256 ∧
    bA.toNat = s.regs.start.toNat / 2 ^ 16 % 256 ∧ bB.toNat = s.regs.start.toNat / 2 ^ 24 ∧
    (s.regs.snap.toNat < 86400000 →
      bC.toNat = 16 * (s.regs.snap.toNat / 1000 / 3600 / 10)
        + s.regs.snap.toNat / 1000 / 3600 % 10 ∧
      bD.toNat = 16 * (s.regs.snap.toNat / 1000 % 3600 / 60 / 10)
        + s.regs.snap.toNat / 1000 % 3600 / 60 % 10 ∧
      bE.toNat = 16 * (s.regs.snap.toNat / 1000 % 60 / 10)
        + s.regs.snap.toNat / 1000 % 60 % 10) ∧
    exec .rdStart0 s = .next { s with out := { irq := s.regs.wake, rdata := b8 } } ∧
    exec .rdStart1 s = .next { s with out := { irq := s.regs.wake, rdata := b9 } } ∧
    exec .rdStart2 s = .next { s with out := { irq := s.regs.wake, rdata := bA } } ∧
    exec .rdStart3 s = .next { s with out := { irq := s.regs.wake, rdata := bB } } ∧
    exec .rdDecH s = .next { s with out := { irq := s.regs.wake, rdata := bC } } ∧
    exec .rdDecM s = .next { s with out := { irq := s.regs.wake, rdata := bD } } ∧
    exec .rdDecS s = .next { s with out := { irq := s.regs.wake, rdata := bE } }

/-- `irq` in every cycle is `WAKE` at its start, and `rdata` is the addressed byte of the state at its
start in a read without reset and 0x00 in every other cycle (R33, R134). -/
def Obligations.OutputsComeFromTheStateAtTheStartOfTheCycle : Prop :=
  ∀ (s t : State) (v : InVec), step (s.placeInput v) = .next t →
    t.out.irq = s.regs.wake ∧
    ((vecRst v = false ∧ vecSel v = true ∧ vecWe v = false) →
      t.out.rdata = memRead s.regs (vecAddr v)) ∧
    (¬ (vecRst v = false ∧ vecSel v = true ∧ vecWe v = false) → t.out.rdata = 0x00#8)

/-- Every read and every write that is not `SNAP` or `CLRW`, at whatever address and with whatever data,
leaves exactly the registers that an idle host slot in the same cycle leaves (R34, R38, R58, R119). -/
def Obligations.OnlySnapAndClrwActFromTheHostSlot : Prop :=
  ∀ (s t u : State) (v w : InVec), vecRst v = false → vecRst w = false → vecSel w = false →
    vecTick w = vecTick v → vecPin w = vecPin v →
    ¬ (vecSel v = true ∧ vecWe v = true ∧ vecAddr v = 0x1#4 ∧
      (vecWdata v = 0x01#8 ∨ vecWdata v = 0x02#8)) →
    step (s.placeInput v) = .next t → step (s.placeInput w) = .next u → t.regs = u.regs

/-- R35: the four bytes of `SNAP` at 0x4 to 0x7 and of `START` at 0x8 to 0xB stand least significant
first, so that the value the host assembles is the register's. -/
def Obligations.WideRegistersReadLittleEndian : Prop :=
  ∀ r : Regs,
    assemble32 (memRead r 0x4#4) (memRead r 0x5#4) (memRead r 0x6#4) (memRead r 0x7#4)
      = r.snap.toNat ∧
    assemble32 (memRead r 0x8#4) (memRead r 0x9#4) (memRead r 0xA#4) (memRead r 0xB#4)
      = r.start.toNat ∧
    (∀ k : Fin 4,
      memRead r (BitVec.ofNat 4 (4 + k)) = r.snap.extractLsb' (8 * k) 8 ∧
      memRead r (BitVec.ofNat 4 (8 + k)) = r.start.extractLsb' (8 * k) 8)

/-- Once a `SNAP` has been issued, every read of `SNAP0..3` and `DEC_H/M/S` in any later cycle, before
another `SNAP` or a reset, returns the byte of the one value that `CLOCK` held at the start of the
cycle of the `SNAP`, however many cycles, ticks, edges and other accesses have passed (R119, R170). -/
def Obligations.SnapshotReadsAreOfOneValueOfTheClock : Prop :=
  ∀ (s t u : State) (v : InVec) (between : List InVec) (r : InVec) (a : Addr),
    s.cfg.Legal → hostOpIs v .snap = true →
    (∀ w ∈ between, vecRst w = false ∧ hostOpIs w .snap = false) →
    runInputs s (v :: between) = .next t →
    vecRst r = false → vecSel r = true → vecWe r = false → vecAddr r = a →
    step (t.placeInput r) = .next u →
    (a = 0x4#4 → u.out.rdata.toNat = s.regs.clock.toNat % 256) ∧
    (a = 0x5#4 → u.out.rdata.toNat = s.regs.clock.toNat / 2 ^ 8 % 256) ∧
    (a = 0x6#4 → u.out.rdata.toNat = s.regs.clock.toNat / 2 ^ 16 % 256) ∧
    (a = 0x7#4 → u.out.rdata.toNat = s.regs.clock.toNat / 2 ^ 24) ∧
    (s.regs.clock.toNat < 86400000 →
      (a = 0xC#4 → u.out.rdata = packedHours (decodeTime s.regs.clock.toNat)) ∧
      (a = 0xD#4 → u.out.rdata = packedMinutes (decodeTime s.regs.clock.toNat)) ∧
      (a = 0xE#4 → u.out.rdata = packedSeconds (decodeTime s.regs.clock.toNat)))

/-- The frame of the operations over the host register space, byte by byte: reads, `IDLE`, `NOP` and
ignored writes change no byte; `SNAP` changes none but `SNAP0..3` and `DEC_H/M/S`; `CLRW` and the pin
samples none but `STATUS`; `TICK` none but `SUBCNT` and `START0..3`. Every such operation leaves the
registers that the table of R10 does not give it. -/
def Obligations.FrameOfTheRegisterSpace : Prop :=
  ∀ (i : Instr) (s t : State) (a : Addr), i ≠ .reset → exec i s = .next t →
    ((a = 0x0#4 ∧ (i = .clrw ∨ i = .sample0 ∨ i = .sample1)) ∨
      ((a = 0x2#4 ∨ 0x8#4 ≤ a ∧ a ≤ 0xB#4) ∧ i = .tick) ∨
      ((0x4#4 ≤ a ∧ a ≤ 0x7#4 ∨ 0xC#4 ≤ a ∧ a ≤ 0xE#4) ∧ i = .snap) ∨
      memRead t.regs a = memRead s.regs a) ∧
    (i.slot = .host →
      t.regs.clock = s.regs.clock ∧ t.regs.sub = s.regs.sub ∧ t.regs.start = s.regs.start ∧
      t.regs.sy1 = s.regs.sy1 ∧ t.regs.sy2 = s.regs.sy2 ∧ t.regs.prev = s.regs.prev ∧
      (i ≠ .snap → t.regs.snap = s.regs.snap) ∧ (i ≠ .clrw → t.regs.wake = s.regs.wake)) ∧
    (i.slot = .pin →
      t.regs.clock = s.regs.clock ∧ t.regs.sub = s.regs.sub ∧ t.regs.start = s.regs.start ∧
      t.regs.snap = s.regs.snap ∧ t.out = s.out) ∧
    (i.slot = .tick →
      t.regs.wake = s.regs.wake ∧ t.regs.snap = s.regs.snap ∧ t.regs.sy1 = s.regs.sy1 ∧
      t.regs.sy2 = s.regs.sy2 ∧ t.regs.prev = s.regs.prev ∧ t.out = s.out)

/-! ## Decoded time -/

/-- R123: the source's property of the decode, for every argument to which it gives a meaning, and that
no other hours, minutes and seconds have it. -/
def Obligations.DecodeIsTheOnlyTimeOfDayOfASnapshot : Prop :=
  ∀ t : Nat, t < 86400000 →
    ((decodeTime t).hours ≤ 23 ∧ (decodeTime t).minutes ≤ 59 ∧ (decodeTime t).seconds ≤ 59 ∧
      t = (((decodeTime t).hours * 3600) + ((decodeTime t).minutes * 60) + (decodeTime t).seconds)
        * 1000 + t % 1000) ∧
    ∀ h m x : Nat, h ≤ 23 → m ≤ 59 → x ≤ 59 →
      t = ((h * 3600) + (m * 60) + x) * 1000 + t % 1000 →
      h = (decodeTime t).hours ∧ m = (decodeTime t).minutes ∧ x = (decodeTime t).seconds

/-- R122: the packed bytes, the bounds of their digits, and that with the default threshold no time
after 23:59:58 is ever presented. -/
def Obligations.PackedBytesReadAsDecimalTime : Prop :=
  (packedHours (decodeTime 86398999) = 0x23#8 ∧ packedMinutes (decodeTime 86398999) = 0x59#8 ∧
    packedSeconds (decodeTime 86398999) = 0x58#8) ∧
  ∀ t : Nat, t < 86400000 →
    let d := decodeTime t
    (packedHours d).toNat = 16 * d.hTens + d.hOnes ∧
    (packedMinutes d).toNat = 16 * d.mTens + d.mOnes ∧
    (packedSeconds d).toNat = 16 * d.sTens + d.sOnes ∧
    d.hours = 10 * d.hTens + d.hOnes ∧ d.minutes = 10 * d.mTens + d.mOnes ∧
    d.seconds = 10 * d.sTens + d.sOnes ∧
    d.hours ≤ 23 ∧ d.minutes ≤ 59 ∧ d.seconds ≤ 59 ∧
    d.hTens ≤ 2 ∧ d.mTens ≤ 5 ∧ d.sTens ≤ 5 ∧ d.hOnes ≤ 9 ∧ d.mOnes ≤ 9 ∧ d.sOnes ≤ 9 ∧
    (t ≤ 86398999 →
      3600 * d.hours + 60 * d.minutes + d.seconds ≤ 3600 * 23 + 60 * 59 + 58)

/-! ## Traces -/

/-- The example of R61 and the expansions of R62. -/
def Obligations.TraceExampleAndPseudoOperationsAssemble : Prop :=
  (parseTrace "TICK, PIN 1, SNAP").map (assemble Config.standard) = some [0x0F101#17] ∧
  (parseTrace "RD32 SNAP").map (assemble Config.standard)
    = some [0x02400#17, 0x02500#17, 0x02600#17, 0x02700#17] ∧
  (parseTrace "RD32 START").map (assemble Config.standard)
    = some [0x02800#17, 0x02900#17, 0x02A00#17, 0x02B00#17] ∧
  (parseTrace "RDTIME").map (assemble Config.standard)
    = some [0x02C00#17, 0x02D00#17, 0x02E00#17] ∧
  (parseTrace "IDLE 2\nTICKS 3").map (assemble Config.standard)
    = some [0x00000#17, 0x00000#17, 0x08000#17, 0x08000#17, 0x08000#17]

/-- A cycle line assembles to a vector that selects what the line says: reset alone if it names it, else
its host operation (`IDLE` without one; `WR` of a command opcode to `CMD` is the command), a tick if it
names one, and the sample of the current level, in the canonical encoding. The assembler emits one vector
a line, in order; a `PIN` item sets the level from its own line on, the lines after it keep that level, and
the first line starts from `PIN_IDLE`. -/
def Obligations.CycleLinesAssembleToTheirOperations : Prop :=
  (∀ (line : CycleLine) (level : Bool),
    vecPin (line.vector level) = level ∧
    (line.reset = true → decode (line.vector level) = .reset) ∧
    (line.reset = false → ∃ h, decode (line.vector level) = .run h line.tick level ∧
      line.vector level = encodeCycle (.run h line.tick level) ∧
      (line.host = none → h = .idle) ∧ (line.host = some .nop → h = .nop) ∧
      (line.host = some .snap → h = .snap) ∧ (line.host = some .clrw → h = .clrw) ∧
      (line.host = some (.wr 0x1#4 0x00#8) → h = .nop) ∧
      (line.host = some (.wr 0x1#4 0x01#8) → h = .snap) ∧
      (line.host = some (.wr 0x1#4 0x02#8) → h = .clrw) ∧
      (∀ a v, line.host = some (.wr a v) → (Instr.wrIgn a v).wf = true → h = .wrIgn a v) ∧
      (∀ reg, line.host = some (.rd reg) →
        h ∈ [Instr.rdStatus, .rdCmd, .rdSub, .rdRsv3, .rdSnap0, .rdSnap1, .rdSnap2, .rdSnap3,
          .rdStart0, .rdStart1, .rdStart2, .rdStart3, .rdDecH, .rdDecM, .rdDecS, .rdRsvf] ∧
        vecAddr (encode h) = reg.addr))) ∧
  (∀ (line : CycleLine) (rest : List CycleLine) (level : Bool),
    assembleCycles [] level = [] ∧
    assembleCycles (line :: rest) level
      = line.vector (line.pin.getD level) :: assembleCycles rest (line.pin.getD level)) ∧
  (∀ (lines more : List CycleLine) (level : Bool),
    (assembleCycles lines level).length = lines.length ∧
    assembleCycles (lines ++ more) level
      = assembleCycles lines level
        ++ assembleCycles more ((lines.filterMap CycleLine.pin).getLastD level)) ∧
  (∀ (c : Config) (trace : List TraceLine),
    assemble c trace = assembleCycles (trace.flatMap TraceLine.expand) c.pinIdle)

/-! ## The consumer that R141 and R142 prescribe (log entries 13 and 21) -/

/-- With the pin at rest and no pending event, no ticks and no interrupts from elsewhere make a consumer
that is outside its display sequence show anything, and the flag stays clear (R94). -/
def Obligations.ConsumerShowsNothingWithoutAnEdge : Prop :=
  ∀ (s : State) (k : Consumer) (b : Bool) (es : List Surroundings), s.cfg.Legal →
    s.regs.wake = false → s.regs.sy1 = b → s.regs.sy2 = b → s.regs.prev = b →
    k.phase ∈ [Phase.checkStatus, .disableInts, .armSleep, .enableInts, .asleep, .disarm] →
    (∀ e ∈ es, e.pin = b) →
    ∃ k' t, turns es k s = .next (k', t) ∧ k'.displays = k.displays ∧ t.regs.wake = false

/-- One pending wake event, with the pin steady: the consumer's wake cycle runs exactly one display
sequence, shows the time of one value that `CLOCK` held, and leaves the flag clear (R142). -/
def Obligations.OneWakeEventGivesOneDisplayAndAClearFlag : Prop :=
  ∀ (s : State) (k : Consumer) (b : Bool) (es : List Surroundings), s.Safe →
    s.regs.wake = true → s.regs.sy1 = b → s.regs.sy2 = b → s.regs.prev = b →
    k.phase = .checkStatus → (∀ e ∈ es, e.pin = b) → es.length = 7 →
    ∃ k' t first, turns es k s = .next (k', t) ∧ turns (es.take 1) k s = .next first ∧
      k'.displays = k.displays + 1 ∧ k'.phase = .disableInts ∧ t.regs.wake = false ∧
      t.regs.snap = first.2.regs.clock ∧
      k'.decH = packedHours (decodeTime first.2.regs.clock.toNat) ∧
      k'.decM = packedMinutes (decodeTime first.2.regs.clock.toNat) ∧
      k'.decS = packedSeconds (decodeTime first.2.regs.clock.toNat)

/-- A wake event that the consumer has not yet come to clear is displayed: in every phase but that of its
`CLRW`, which consumes the event (R172), a pending event is displayed within eleven cycles, whatever the
pin, the ticks and other interrupts do (R141: asleep it sleeps with interrupts enabled). That a phase
takes one cycle, and so the number eleven, is the model's choice (log entry 13), and so is that the
level of `irq` releases the sleep (log entry 21; R173 leaves it to the host). -/
def Obligations.PendingWakeEventIsDisplayedWithinElevenCycles : Prop :=
  ∀ (s : State) (k : Consumer) (es : List Surroundings), s.cfg.Legal → s.regs.wake = true →
    k.phase ≠ .clear → (k.phase = .asleep → k.intsEnabled = true) → es.length = 11 →
    ∃ k' t, turns es k s = .next (k', t) ∧ k.displays < k'.displays
end

