-- ==== Sys2Proof/Laws/Decode.lean ====
section
/-! SUPPORT. The fields of an assembled vector, of slots laid together, and of a masked one. -/

namespace Sys2Proof

variable (rst tick pin sel we : Bool) (addr : Addr) (wdata : Byte)

/-! ## Fields of `vecOf` (R51) -/

@[simp] theorem vecRst_vecOf : vecRst (vecOf rst tick pin sel we addr wdata) = rst := by
  simp only [vecRst, vecOf, BitVec.getLsbD_append, BitVec.getLsbD_ofBool]
  simp

@[simp] theorem vecTick_vecOf : vecTick (vecOf rst tick pin sel we addr wdata) = tick := by
  simp only [vecTick, vecOf, BitVec.getLsbD_append, BitVec.getLsbD_ofBool]
  simp

@[simp] theorem vecPin_vecOf : vecPin (vecOf rst tick pin sel we addr wdata) = pin := by
  simp only [vecPin, vecOf, BitVec.getLsbD_append, BitVec.getLsbD_ofBool]
  simp

@[simp] theorem vecSel_vecOf : vecSel (vecOf rst tick pin sel we addr wdata) = sel := by
  simp only [vecSel, vecOf, BitVec.getLsbD_append, BitVec.getLsbD_ofBool]
  simp

@[simp] theorem vecWe_vecOf : vecWe (vecOf rst tick pin sel we addr wdata) = we := by
  simp only [vecWe, vecOf, BitVec.getLsbD_append, BitVec.getLsbD_ofBool]
  simp

@[simp] theorem vecAddr_vecOf : vecAddr (vecOf rst tick pin sel we addr wdata) = addr := by
  apply BitVec.eq_of_getLsbD_eq
  intro i hi
  simp only [vecAddr, vecOf, BitVec.getLsbD_extractLsb', BitVec.getLsbD_append]
  have h1 : ¬ (8 + i < 8) := by omega
  have h2 : 8 + i - 8 = i := by omega
  simp [hi, h1, h2]

@[simp] theorem vecWdata_vecOf : vecWdata (vecOf rst tick pin sel we addr wdata) = wdata := by
  apply BitVec.eq_of_getLsbD_eq
  intro i hi
  simp only [vecWdata, vecOf, BitVec.getLsbD_extractLsb', BitVec.getLsbD_append]
  simp [hi]

/-! ## Fields of slots laid together -/

@[simp] theorem vecRst_or (v w : InVec) : vecRst (v ||| w) = (vecRst v || vecRst w) := by
  simp [vecRst]
@[simp] theorem vecTick_or (v w : InVec) : vecTick (v ||| w) = (vecTick v || vecTick w) := by
  simp [vecTick]
@[simp] theorem vecPin_or (v w : InVec) : vecPin (v ||| w) = (vecPin v || vecPin w) := by
  simp [vecPin]
@[simp] theorem vecSel_or (v w : InVec) : vecSel (v ||| w) = (vecSel v || vecSel w) := by
  simp [vecSel]
@[simp] theorem vecWe_or (v w : InVec) : vecWe (v ||| w) = (vecWe v || vecWe w) := by
  simp [vecWe]
@[simp] theorem vecAddr_or (v w : InVec) : vecAddr (v ||| w) = vecAddr v ||| vecAddr w := by
  simp [vecAddr, BitVec.extractLsb'_or]
@[simp] theorem vecWdata_or (v w : InVec) : vecWdata (v ||| w) = vecWdata v ||| vecWdata w := by
  simp [vecWdata, BitVec.extractLsb'_or]

/-- A vector is its fields (R51). -/
theorem vecOf_fields (v : InVec) :
    vecOf (vecRst v) (vecTick v) (vecPin v) (vecSel v) (vecWe v) (vecAddr v) (vecWdata v) = v := by
  apply BitVec.eq_of_getLsbD_eq
  intro i hi
  simp only [vecOf, vecRst, vecTick, vecPin, vecSel, vecWe, vecAddr, vecWdata, BitVec.getLsbD_append,
    BitVec.getLsbD_ofBool, BitVec.getLsbD_extractLsb']
  by_cases h8 : i < 8
  · simp [h8]
  · by_cases h12 : i < 12
    · have h4 : i - 8 < 4 := by omega
      have e : 8 + (i - 8) = i := by omega
      simp [h8, h4, e]
    · have hcases : i = 12 ∨ i = 13 ∨ i = 14 ∨ i = 15 ∨ i = 16 := by omega
      rcases hcases with rfl | rfl | rfl | rfl | rfl <;> simp

/-! ## A cycle's vector -/

/-- The tick slot's bits are the vector with that bit alone. -/
theorem encode_tick_slot (t : Bool) :
    (if t then encode .tick else 0#17) = vecOf false t false false false 0x0#4 0x00#8 := by
  cases t <;> decide

/-- The pin slot's bits are the vector with that bit alone. -/
theorem encode_pin_slot (b : Bool) :
    encode (pinInstr b) = vecOf false false b false false 0x0#4 0x00#8 := by
  cases b <;> rfl

/-- The slots of a cycle whose host operation has the given host fields. -/
theorem encodeCycle_of_fields {host : Instr} {sel we : Bool} {addr : Addr} {wdata : Byte}
    (h : encode host = vecOf false false false sel we addr wdata) (tick pin : Bool) :
    encodeCycle (.run host tick pin) = vecOf false tick pin sel we addr wdata := by
  rw [encodeCycle, encode_tick_slot, encode_pin_slot, h, ← vecOf_fields (_ ||| _)]
  simp

/-- `WR.IGN` is what a write decodes to when it is no command (R58). -/
theorem decodeWrite_of_wf {a : Addr} {v : Byte} (h : (Instr.wrIgn a v).wf = true) :
    decodeWrite a v = .wrIgn a v := by
  simp only [Instr.wf, isCommandWrite, Bool.not_eq_true', Bool.and_eq_false_iff,
    Bool.or_eq_false_iff, beq_eq_false_iff_ne] at h
  unfold decodeWrite
  split
  · rename_i ha
    have hv := h.resolve_left (fun hn => hn ha)
    simp [hv.1.1, hv.1.2, hv.2]
  · rfl

/-- The decoder's host operation is well formed and belongs to the host slot (R52, R58). -/
theorem decodeHost_wf (v : InVec) : (decodeHost v).slot = .host ∧ (decodeHost v).wf = true := by
  unfold decodeHost
  split
  · split
    · unfold decodeWrite
      split
      · split
        · exact ⟨rfl, rfl⟩
        split
        · exact ⟨rfl, rfl⟩
        split
        · exact ⟨rfl, rfl⟩
        · rename_i h0 h1 h2
          exact ⟨rfl, by simp [Instr.wf, isCommandWrite, h0, h1, h2]⟩
      · rename_i ha
        exact ⟨rfl, by simp [Instr.wf, isCommandWrite, ha]⟩
    · unfold decodeRead
      split <;> exact ⟨rfl, rfl⟩
  · exact ⟨rfl, rfl⟩

/-! ## Masks (R56) -/

theorem vecRst_and (v m : InVec) : vecRst (v &&& m) = (vecRst v && vecRst m) := by simp [vecRst]
theorem vecTick_and (v m : InVec) : vecTick (v &&& m) = (vecTick v && vecTick m) := by simp [vecTick]
theorem vecPin_and (v m : InVec) : vecPin (v &&& m) = (vecPin v && vecPin m) := by simp [vecPin]
theorem vecSel_and (v m : InVec) : vecSel (v &&& m) = (vecSel v && vecSel m) := by simp [vecSel]
theorem vecWe_and (v m : InVec) : vecWe (v &&& m) = (vecWe v && vecWe m) := by simp [vecWe]
theorem vecAddr_and (v m : InVec) : vecAddr (v &&& m) = vecAddr v &&& vecAddr m := by
  simp [vecAddr, BitVec.extractLsb'_and]
theorem vecWdata_and (v m : InVec) : vecWdata (v &&& m) = vecWdata v &&& vecWdata m := by
  simp [vecWdata, BitVec.extractLsb'_and]

/-- Two vectors are equal when their fields are. -/
theorem vec_eq_iff (v w : InVec) :
    v = w ↔ vecRst v = vecRst w ∧ vecTick v = vecTick w ∧ vecPin v = vecPin w ∧ vecSel v = vecSel w ∧
      vecWe v = vecWe w ∧ vecAddr v = vecAddr w ∧ vecWdata v = vecWdata w := by
  constructor
  · rintro rfl
    exact ⟨rfl, rfl, rfl, rfl, rfl, rfl, rfl⟩
  · rintro ⟨h1, h2, h3, h4, h5, h6, h7⟩
    rw [← vecOf_fields v, ← vecOf_fields w, h1, h2, h3, h4, h5, h6, h7]

/-- A row selects a vector when the vector's fields, masked, are the pattern's fields. -/
theorem OpcodeRow.selects_iff (row : OpcodeRow) (v : InVec) :
    row.selects v = true ↔
      (vecRst v && vecRst row.mask) = vecRst row.pattern ∧
      (vecTick v && vecTick row.mask) = vecTick row.pattern ∧
      (vecPin v && vecPin row.mask) = vecPin row.pattern ∧
      (vecSel v && vecSel row.mask) = vecSel row.pattern ∧
      (vecWe v && vecWe row.mask) = vecWe row.pattern ∧
      vecAddr v &&& vecAddr row.mask = vecAddr row.pattern ∧
      vecWdata v &&& vecWdata row.mask = vecWdata row.pattern := by
  rw [OpcodeRow.selects, beq_iff_eq, vec_eq_iff]
  simp only [vecRst_and, vecTick_and, vecPin_and, vecSel_and, vecWe_and, vecAddr_and, vecWdata_and]

end Sys2Proof
end

