-- ==== Sys2Proof/Laws/State.lean ====
section
/-! SUPPORT. One lemma per field per update, so that no later proof unfolds a record update. -/

namespace Sys2Proof.Machine

/-! ## `State.setRegs` -/

@[simp] theorem State.setRegs_regs (s : State) (r : Regs) : (s.setRegs r).regs = r := rfl
@[simp] theorem State.setRegs_cfg (s : State) (r : Regs) : (s.setRegs r).cfg = s.cfg := rfl
@[simp] theorem State.setRegs_inputs (s : State) (r : Regs) : (s.setRegs r).inputs = s.inputs := rfl
@[simp] theorem State.setRegs_drawn (s : State) (r : Regs) : (s.setRegs r).drawn = s.drawn := rfl
@[simp] theorem State.setRegs_out (s : State) (r : Regs) : (s.setRegs r).out = s.out := rfl
@[simp] theorem State.setRegs_self (s : State) : s.setRegs s.regs = s := rfl
@[simp] theorem State.setRegs_setRegs (s : State) (r q : Regs) :
    (s.setRegs r).setRegs q = s.setRegs q := rfl

/-! ## `State.drive` -/

@[simp] theorem State.drive_regs (s : State) (b : Byte) : (s.drive b).regs = s.regs := rfl
@[simp] theorem State.drive_cfg (s : State) (b : Byte) : (s.drive b).cfg = s.cfg := rfl
@[simp] theorem State.drive_inputs (s : State) (b : Byte) : (s.drive b).inputs = s.inputs := rfl
@[simp] theorem State.drive_drawn (s : State) (b : Byte) : (s.drive b).drawn = s.drawn := rfl
@[simp] theorem State.drive_out (s : State) (b : Byte) : (s.drive b).out = ⟨s.regs.wake, b⟩ := rfl

/-! ## `Regs.clearWake` -/

@[simp] theorem Regs.clearWake_clock (r : Regs) : r.clearWake.clock = r.clock := rfl
@[simp] theorem Regs.clearWake_sub (r : Regs) : r.clearWake.sub = r.sub := rfl
@[simp] theorem Regs.clearWake_start (r : Regs) : r.clearWake.start = r.start := rfl
@[simp] theorem Regs.clearWake_wake (r : Regs) : r.clearWake.wake = false := rfl
@[simp] theorem Regs.clearWake_snap (r : Regs) : r.clearWake.snap = r.snap := rfl
@[simp] theorem Regs.clearWake_sy1 (r : Regs) : r.clearWake.sy1 = r.sy1 := rfl
@[simp] theorem Regs.clearWake_sy2 (r : Regs) : r.clearWake.sy2 = r.sy2 := rfl
@[simp] theorem Regs.clearWake_prev (r : Regs) : r.clearWake.prev = r.prev := rfl

/-! ## `Regs.takeSnapshot` -/

@[simp] theorem Regs.takeSnapshot_clock (r : Regs) : r.takeSnapshot.clock = r.clock := rfl
@[simp] theorem Regs.takeSnapshot_sub (r : Regs) : r.takeSnapshot.sub = r.sub := rfl
@[simp] theorem Regs.takeSnapshot_start (r : Regs) : r.takeSnapshot.start = r.start := rfl
@[simp] theorem Regs.takeSnapshot_wake (r : Regs) : r.takeSnapshot.wake = r.wake := rfl
@[simp] theorem Regs.takeSnapshot_snap (r : Regs) : r.takeSnapshot.snap = r.clock := rfl
@[simp] theorem Regs.takeSnapshot_sy1 (r : Regs) : r.takeSnapshot.sy1 = r.sy1 := rfl
@[simp] theorem Regs.takeSnapshot_sy2 (r : Regs) : r.takeSnapshot.sy2 = r.sy2 := rfl
@[simp] theorem Regs.takeSnapshot_prev (r : Regs) : r.takeSnapshot.prev = r.prev := rfl

/-! ## `Regs.sample` -/

@[simp] theorem Regs.sample_clock (b : Bool) (r : Regs) : (r.sample b).clock = r.clock := rfl
@[simp] theorem Regs.sample_sub (b : Bool) (r : Regs) : (r.sample b).sub = r.sub := rfl
@[simp] theorem Regs.sample_start (b : Bool) (r : Regs) : (r.sample b).start = r.start := rfl
@[simp] theorem Regs.sample_wake (b : Bool) (r : Regs) :
    (r.sample b).wake = (r.wake || r.sy2 != r.prev) := rfl
@[simp] theorem Regs.sample_snap (b : Bool) (r : Regs) : (r.sample b).snap = r.snap := rfl
@[simp] theorem Regs.sample_sy1 (b : Bool) (r : Regs) : (r.sample b).sy1 = b := rfl
@[simp] theorem Regs.sample_sy2 (b : Bool) (r : Regs) : (r.sample b).sy2 = r.sy1 := rfl
@[simp] theorem Regs.sample_prev (b : Bool) (r : Regs) : (r.sample b).prev = r.sy2 := rfl

/-! ## `Regs.tick` -/

@[simp] theorem Regs.tick_clock (c : Config) (r : Regs) :
    (r.tick c).clock = if r.tickWraps c then 0#32 else BitVec.ofNat 32 (r.tickSum c) := by
  unfold Regs.tick; split <;> rfl
@[simp] theorem Regs.tick_sub (c : Config) (r : Regs) :
    (r.tick c).sub = BitVec.ofNat 8 (r.tickCount c) := by unfold Regs.tick; split <;> rfl
@[simp] theorem Regs.tick_start (c : Config) (r : Regs) :
    (r.tick c).start = if r.tickWraps c then 0#32 else r.start := by
  unfold Regs.tick; split <;> rfl
@[simp] theorem Regs.tick_wake (c : Config) (r : Regs) : (r.tick c).wake = r.wake := by
  unfold Regs.tick; split <;> rfl
@[simp] theorem Regs.tick_snap (c : Config) (r : Regs) : (r.tick c).snap = r.snap := by
  unfold Regs.tick; split <;> rfl
@[simp] theorem Regs.tick_sy1 (c : Config) (r : Regs) : (r.tick c).sy1 = r.sy1 := by
  unfold Regs.tick; split <;> rfl
@[simp] theorem Regs.tick_sy2 (c : Config) (r : Regs) : (r.tick c).sy2 = r.sy2 := by
  unfold Regs.tick; split <;> rfl
@[simp] theorem Regs.tick_prev (c : Config) (r : Regs) : (r.tick c).prev = r.prev := by
  unfold Regs.tick; split <;> rfl

/-! ## `Regs.reset` -/

@[simp] theorem Regs.reset_clock (c : Config) :
    (Regs.reset c).clock = BitVec.ofNat 32 c.initMs := rfl
@[simp] theorem Regs.reset_sub (c : Config) : (Regs.reset c).sub = 0x00#8 := rfl
@[simp] theorem Regs.reset_start (c : Config) :
    (Regs.reset c).start = BitVec.ofNat 32 c.initMs := rfl
@[simp] theorem Regs.reset_wake (c : Config) : (Regs.reset c).wake = false := rfl
@[simp] theorem Regs.reset_snap (c : Config) : (Regs.reset c).snap = 0#32 := rfl
@[simp] theorem Regs.reset_sy1 (c : Config) : (Regs.reset c).sy1 = c.pinIdle := rfl
@[simp] theorem Regs.reset_sy2 (c : Config) : (Regs.reset c).sy2 = c.pinIdle := rfl
@[simp] theorem Regs.reset_prev (c : Config) : (Regs.reset c).prev = c.pinIdle := rfl

end Sys2Proof.Machine
end

