-- ==== Sys2Proof/Laws/Ops.lean ====
section
/-! SUPPORT. What each shared operation can do, once: the tick update in natural numbers, the bytes of
a word, and the register space's reads and writes. -/

namespace Sys2Proof.Machine

/-! ## The tick update -/

theorem Regs.tickCount_eq (c : Config) (r : Regs) :
    r.tickCount c = if c.corrPeriod ≤ r.sub.toNat + 1 then 0 else r.sub.toNat + 1 := by
  simp [Regs.tickCount, Regs.correctionDue]

theorem Regs.tickSum_eq (c : Config) (r : Regs) :
    r.tickSum c
      = r.clock.toNat + c.incMs + (if c.corrPeriod ≤ r.sub.toNat + 1 then c.corrMs else 0) := by
  simp [Regs.tickSum, Regs.correctionDue]

theorem Regs.tickWraps_iff (c : Config) (r : Regs) :
    r.tickWraps c = true ↔ c.wrapMs ≤ r.tickSum c := by simp [Regs.tickWraps]

/-- The stored count always fits the byte, in unreachable states too. -/
theorem Regs.tickCount_lt {c : Config} (h : c.Legal) (r : Regs) : r.tickCount c < c.corrPeriod := by
  rw [Regs.tickCount_eq]
  split <;> omega

theorem Regs.tick_sub_toNat {c : Config} (h : c.Legal) (r : Regs) :
    (r.tick c).sub.toNat = r.tickCount c := by
  have hlt := Regs.tickCount_lt h r
  have hp : c.corrPeriod ≤ 255 := h.2.2.1
  rw [Regs.tick_sub, BitVec.toNat_ofNat]
  omega

/-- A sum that is stored is below the threshold, so no bit of it is lost (R77). -/
theorem Regs.tick_clock_toNat {c : Config} (h : c.Legal) (r : Regs) :
    (r.tick c).clock.toNat = if c.wrapMs ≤ r.tickSum c then 0 else r.tickSum c := by
  have hw : c.wrapMs ≤ 86400000 := h.2.2.2.2.1
  rw [Regs.tick_clock]
  by_cases hc : c.wrapMs ≤ r.tickSum c
  · rw [if_pos ((Regs.tickWraps_iff c r).2 hc), if_pos hc]
    rfl
  · rw [if_neg (fun hx => hc ((Regs.tickWraps_iff c r).1 hx)), if_neg hc, BitVec.toNat_ofNat]
    omega

/-! ## Reset -/

theorem initMs_toNat {c : Config} (h : c.Legal) : (BitVec.ofNat 32 c.initMs).toNat = c.initMs := by
  obtain ⟨-, -, -, -, hw, -, -, -, hi, -⟩ := h
  rw [BitVec.toNat_ofNat]
  omega

/-! ## Bytes of a word (R35) -/

theorem byteOf_toNat (w : Word) (k : Nat) : (byteOf w k).toNat = w.toNat / 2 ^ (8 * k) % 256 := by
  simp [byteOf, BitVec.extractLsb'_toNat, Nat.shiftRight_eq_div_pow]

theorem assemble32_bytes (w : Word) :
    assemble32 (byteOf w 0) (byteOf w 1) (byteOf w 2) (byteOf w 3) = w.toNat := by
  have h := w.isLt
  simp only [assemble32, byteOf_toNat]
  omega

/-! ## Packed digits (R122) -/

theorem packDigits_toNat {tens ones : Nat} (ht : tens < 16) (ho : ones < 16) :
    (packDigits tens ones).toNat = 16 * tens + ones := by
  have e : packDigits tens ones = BitVec.ofNat 4 tens ++ BitVec.ofNat 4 ones := rfl
  rw [e, BitVec.toNat_append, BitVec.toNat_ofNat, BitVec.toNat_ofNat, Nat.mod_eq_of_lt ht,
    Nat.mod_eq_of_lt ho, ← Nat.shiftLeft_add_eq_or_of_lt (by omega), Nat.shiftLeft_eq]
  omega

theorem decodedByte_of_lt {a : Addr} {w : Word} (h : w.toNat < 86400000)
    (digits : DecodedTime → Byte) : decodedByte a w digits = digits (decodeTime w.toNat) := by
  simp [decodedByte, decodable, h]

/-! ## The register space -/

/-- The bytes read at `SNAP0..3` and `DEC_H/M/S` depend on the snapshot only (R119). -/
theorem memRead_congr_snap {r q : Regs} (h : r.snap = q.snap) {a : Addr}
    (ha : a ∈ [0x4#4, 0x5#4, 0x6#4, 0x7#4, 0xC#4, 0xD#4, 0xE#4]) : memRead r a = memRead q a := by
  simp only [List.mem_cons, List.not_mem_nil, or_false] at ha
  rcases ha with rfl | rfl | rfl | rfl | rfl | rfl | rfl <;> simp [memRead, h]

theorem memWrite_nop (r : Regs) : memWrite r 0x1#4 0x00#8 = r := rfl
theorem memWrite_snap (r : Regs) : memWrite r 0x1#4 0x01#8 = r.takeSnapshot := rfl
theorem memWrite_clrw (r : Regs) : memWrite r 0x1#4 0x02#8 = r.clearWake := rfl

/-- A write that is no command stores nothing anywhere (R34, R58). -/
theorem memWrite_of_wf {a : Addr} {v : Byte} (h : (Instr.wrIgn a v).wf = true) (r : Regs) :
    memWrite r a v = r := by
  simp only [Instr.wf, isCommandWrite, Bool.not_eq_true', Bool.and_eq_false_iff,
    Bool.or_eq_false_iff, beq_eq_false_iff_ne] at h
  unfold memWrite
  split
  · rename_i ha
    have hv := h.resolve_left (fun hn => hn ha)
    simp [commandOf, hv.1.1, hv.1.2, hv.2]
  · rfl

end Sys2Proof.Machine
end

