-- ==== Sys2Proof/Laws/Exec.lean ====
section
/-! SUPPORT. Each meaning as an equation, and the host operations in one form: a byte that goes out and
an effect on the registers. -/

namespace Sys2Proof.Machine

theorem exec_reset (s : State) :
    exec .reset s = .next ((s.drive 0x00#8).setRegs (Regs.reset s.cfg)) := rfl

theorem exec_tick (s : State) : exec .tick s = .next (s.setRegs (s.regs.tick s.cfg)) := rfl

/-- Both pin samples in one form (R85, R91, R92). -/
theorem exec_pinInstr (b : Bool) (s : State) :
    exec (pinInstr b) s = .next (s.setRegs (s.regs.sample b)) := by cases b <;> rfl

/-- What a host operation does to the registers: only the two commands do anything. -/
def hostEffect (i : Instr) (r : Regs) : Regs :=
  match i with
  | .snap => r.takeSnapshot
  | .clrw => r.clearWake
  | _ => r

/-- The byte that a host operation puts on `rdata`. -/
def hostByte (i : Instr) (r : Regs) : Byte :=
  match i with
  | .rdStatus => memRead r 0x0#4
  | .rdCmd => memRead r 0x1#4
  | .rdSub => memRead r 0x2#4
  | .rdRsv3 => memRead r 0x3#4
  | .rdSnap0 => memRead r 0x4#4
  | .rdSnap1 => memRead r 0x5#4
  | .rdSnap2 => memRead r 0x6#4
  | .rdSnap3 => memRead r 0x7#4
  | .rdStart0 => memRead r 0x8#4
  | .rdStart1 => memRead r 0x9#4
  | .rdStart2 => memRead r 0xA#4
  | .rdStart3 => memRead r 0xB#4
  | .rdDecH => memRead r 0xC#4
  | .rdDecM => memRead r 0xD#4
  | .rdDecS => memRead r 0xE#4
  | .rdRsvf => memRead r 0xF#4
  | _ => 0x00#8

/-- Everything a host operation can do. -/
theorem exec_host {i : Instr} (h : i.slot = .host) (s : State) :
    exec i s = .next ((s.drive (hostByte i s.regs)).setRegs (hostEffect i s.regs)) := by
  cases i <;> first | rfl | exact absurd h (by decide)

/-! ## The effect, field by field -/

theorem hostEffect_eq_self {i : Instr} (hs : i ≠ .snap) (hc : i ≠ .clrw) (r : Regs) :
    hostEffect i r = r := by
  cases i <;> first | rfl | exact absurd rfl hs | exact absurd rfl hc

@[simp] theorem hostEffect_clock (i : Instr) (r : Regs) : (hostEffect i r).clock = r.clock := by
  cases i <;> rfl
@[simp] theorem hostEffect_sub (i : Instr) (r : Regs) : (hostEffect i r).sub = r.sub := by
  cases i <;> rfl
@[simp] theorem hostEffect_start (i : Instr) (r : Regs) : (hostEffect i r).start = r.start := by
  cases i <;> rfl
@[simp] theorem hostEffect_sy1 (i : Instr) (r : Regs) : (hostEffect i r).sy1 = r.sy1 := by
  cases i <;> rfl
@[simp] theorem hostEffect_sy2 (i : Instr) (r : Regs) : (hostEffect i r).sy2 = r.sy2 := by
  cases i <;> rfl
@[simp] theorem hostEffect_prev (i : Instr) (r : Regs) : (hostEffect i r).prev = r.prev := by
  cases i <;> rfl
@[simp] theorem hostEffect_snap (i : Instr) (r : Regs) :
    (hostEffect i r).snap = if i = .snap then r.clock else r.snap := by cases i <;> rfl
@[simp] theorem hostEffect_wake (i : Instr) (r : Regs) :
    (hostEffect i r).wake = if i = .clrw then false else r.wake := by cases i <;> rfl

/-- The tick reads and writes nothing that a host operation writes (R53). -/
theorem tickSum_hostEffect (c : Config) (i : Instr) (r : Regs) :
    (hostEffect i r).tickSum c = r.tickSum c := by simp [Regs.tickSum_eq]
theorem tickCount_hostEffect (c : Config) (i : Instr) (r : Regs) :
    (hostEffect i r).tickCount c = r.tickCount c := by simp [Regs.tickCount_eq]
theorem tickWraps_hostEffect (c : Config) (i : Instr) (r : Regs) :
    (hostEffect i r).tickWraps c = r.tickWraps c := by
  simp [Regs.tickWraps, tickSum_hostEffect]

end Sys2Proof.Machine
end

