-- ==== Sys2Proof/Laws/Step.lean ====
section
/-! SUPPORT. Everything one step can do, once; and a run over given inputs as a fold, with its induction
packaged. -/

namespace Sys2Proof.Machine

/-! ## Taking and placing an input -/

@[simp] theorem State.nextInput_placeInput (s : State) (v : InVec) :
    (s.placeInput v).nextInput = v := rfl
@[simp] theorem State.placeInput_regs (s : State) (v : InVec) : (s.placeInput v).regs = s.regs := rfl
@[simp] theorem State.placeInput_cfg (s : State) (v : InVec) : (s.placeInput v).cfg = s.cfg := rfl
@[simp] theorem State.placeInput_out (s : State) (v : InVec) : (s.placeInput v).out = s.out := rfl
@[simp] theorem State.takeInput_placeInput (s : State) (v : InVec) :
    (s.placeInput v).takeInput = { s with inputs := s.inputs.tail } := rfl
@[simp] theorem State.takeInput_regs (s : State) : s.takeInput.regs = s.regs := rfl
@[simp] theorem State.takeInput_cfg (s : State) : s.takeInput.cfg = s.cfg := rfl
@[simp] theorem State.takeInput_out (s : State) : s.takeInput.out = s.out := rfl
@[simp] theorem State.withInputs_regs (s : State) (vs : List InVec) :
    (s.withInputs vs).regs = s.regs := rfl
@[simp] theorem State.withInputs_cfg (s : State) (vs : List InVec) :
    (s.withInputs vs).cfg = s.cfg := rfl
theorem State.nextInput_of_cons {s : State} {v : InVec} {vs : List InVec} (h : s.inputs = v :: vs) :
    s.nextInput = v := by simp [State.nextInput, h]
theorem State.takeInput_of_cons {s : State} {v : InVec} {vs : List InVec} (h : s.inputs = v :: vs) :
    s.takeInput = { s with inputs := vs } := by simp [State.takeInput, h]

/-! ## One cycle -/

/-- The registers after a cycle: reset, or host operation, tick and pin sample in turn (R53). -/
def nextRegs (c : Config) (v : InVec) (r : Regs) : Regs :=
  if vecRst v then Regs.reset c
  else if vecTick v then ((hostEffect (decodeHost v) r).tick c).sample (vecPin v)
  else (hostEffect (decodeHost v) r).sample (vecPin v)

/-- The outputs in a cycle (R53). -/
def cycleOut (v : InVec) (r : Regs) : Output :=
  ⟨r.wake, if vecRst v then 0x00#8 else hostByte (decodeHost v) r⟩

/-- What a cycle leaves of a state whose input has been taken. -/
def State.after (s : State) (v : InVec) : State :=
  { s with regs := nextRegs s.cfg v s.regs, out := cycleOut v s.regs }

@[simp] theorem State.after_regs (s : State) (v : InVec) :
    (s.after v).regs = nextRegs s.cfg v s.regs := rfl
@[simp] theorem State.after_cfg (s : State) (v : InVec) : (s.after v).cfg = s.cfg := rfl
@[simp] theorem State.after_inputs (s : State) (v : InVec) : (s.after v).inputs = s.inputs := rfl
@[simp] theorem State.after_drawn (s : State) (v : InVec) : (s.after v).drawn = s.drawn := rfl
@[simp] theorem State.after_out (s : State) (v : InVec) : (s.after v).out = cycleOut v s.regs := rfl

theorem runOps_cons {i : Instr} {s t : State} (h : exec i s = .next t) (is : List Instr) :
    runOps (i :: is) s = runOps is t := by rw [runOps, h]

/-- Everything a cycle can do. -/
theorem runCycle_eq (v : InVec) (s : State) : runCycle v s = .next (s.after v) := by
  unfold runCycle decode
  by_cases hr : vecRst v
  · simp only [hr, if_true, Cycle.ops, runOps_cons (exec_reset s), runOps]
    simp [State.after, nextRegs, cycleOut, hr, State.setRegs, State.drive]
  · have hh := exec_host (decodeHost_wf v).1 s
    by_cases ht : vecTick v
    · simp [hr, ht, Cycle.ops, runOps, hh, exec_tick, exec_pinInstr, State.after, nextRegs, cycleOut,
        State.setRegs, State.drive]
    · simp [hr, ht, Cycle.ops, runOps, hh, exec_pinInstr, State.after, nextRegs, cycleOut,
        State.setRegs, State.drive]

/-- Everything a step of a legal block can do. -/
theorem step_eq {s : State} (h : s.cfg.Legal) : step s = .next (s.takeInput.after s.nextInput) := by
  rw [step, if_pos h, runCycle_eq]

/-- The inversion of a step: the block is legal and the next state is the one cycle's. -/
theorem step_inv {s t : State} (h : step s = .next t) :
    s.cfg.Legal ∧ t = s.takeInput.after s.nextInput := by
  by_cases hl : s.cfg.Legal
  · rw [step_eq hl] at h
    exact ⟨hl, (Host.Outcome.next.inj h).symm⟩
  · rw [step, if_neg hl] at h
    cases h

theorem step_placeInput {s : State} (h : s.cfg.Legal) (v : InVec) :
    step (s.placeInput v) = .next ({ s with inputs := s.inputs.tail }.after v) :=
  step_eq (s := s.placeInput v) h

/-! ## The registers after a cycle, field by field -/

section Fields

variable (c : Config) {v : InVec} (h : vecRst v = false) (r : Regs)
include h

theorem nextRegs_snap :
    (nextRegs c v r).snap = if decodeHost v = .snap then r.clock else r.snap := by
  cases ht : vecTick v <;> simp [nextRegs, h, ht]

theorem nextRegs_wake :
    (nextRegs c v r).wake
      = ((if decodeHost v = .clrw then false else r.wake) || r.sy2 != r.prev) := by
  cases ht : vecTick v <;> simp [nextRegs, h, ht]

theorem nextRegs_sync :
    (nextRegs c v r).sy1 = vecPin v ∧ (nextRegs c v r).sy2 = r.sy1 ∧ (nextRegs c v r).prev = r.sy2 := by
  cases ht : vecTick v <;> simp [nextRegs, h, ht]

theorem nextRegs_clock :
    (nextRegs c v r).clock = if vecTick v then (r.tick c).clock else r.clock := by
  cases ht : vecTick v <;> simp [nextRegs, h, ht, tickWraps_hostEffect, tickSum_hostEffect]

theorem nextRegs_sub :
    (nextRegs c v r).sub = if vecTick v then (r.tick c).sub else r.sub := by
  cases ht : vecTick v <;> simp [nextRegs, h, ht, tickCount_hostEffect]

theorem nextRegs_start :
    (nextRegs c v r).start = if vecTick v then (r.tick c).start else r.start := by
  cases ht : vecTick v <;> simp [nextRegs, h, ht, tickWraps_hostEffect]

end Fields

/-! ## Runs over given inputs -/

/-- The registers after a run, as a fold. -/
def foldRegs (c : Config) (r : Regs) (vs : List InVec) : Regs :=
  vs.foldl (fun q v => nextRegs c v q) r

@[simp] theorem foldRegs_nil (c : Config) (r : Regs) : foldRegs c r [] = r := rfl
@[simp] theorem foldRegs_cons (c : Config) (r : Regs) (v : InVec) (vs : List InVec) :
    foldRegs c r (v :: vs) = foldRegs c (nextRegs c v r) vs := rfl
theorem foldRegs_append (c : Config) (r : Regs) (vs ws : List InVec) :
    foldRegs c r (vs ++ ws) = foldRegs c (foldRegs c r vs) ws := by
  simp [foldRegs, List.foldl_append]

theorem runInputs_nil (s : State) : runInputs s [] = .next (s.withInputs []) := rfl

theorem runInputs_cons {s : State} (h : s.cfg.Legal) (v : InVec) (vs : List InVec) :
    runInputs s (v :: vs) = runInputs (s.after v) vs := by
  have hs : step (s.withInputs (v :: vs)) = .next ((s.after v).withInputs vs) := step_eq h
  have hc : Sys2Proof.core.step (s.withInputs (v :: vs)) = .next ((s.after v).withInputs vs) := hs
  simp only [runInputs, List.length_cons, Host.Core.run, hc]
  rfl

/-- A run over given inputs always ends in a next state, whose registers are the fold's. -/
theorem runInputs_eq {s : State} (h : s.cfg.Legal) (vs : List InVec) :
    ∃ o, runInputs s vs
      = .next { s with regs := foldRegs s.cfg s.regs vs, inputs := [], out := o } := by
  induction vs generalizing s with
  | nil => exact ⟨s.out, rfl⟩
  | cons v vs ih =>
    obtain ⟨o, ho⟩ := ih (s := s.after v) h
    exact ⟨o, by rw [runInputs_cons h, ho]; rfl⟩

theorem runInputs_inv {s t : State} {vs : List InVec} (h : s.cfg.Legal)
    (hr : runInputs s vs = .next t) :
    t.regs = foldRegs s.cfg s.regs vs ∧ t.cfg = s.cfg ∧ t.inputs = [] ∧ t.drawn = s.drawn := by
  obtain ⟨o, ho⟩ := runInputs_eq h vs
  rw [ho] at hr
  obtain rfl := Host.Outcome.next.inj hr
  exact ⟨rfl, rfl, rfl, rfl⟩

/-- The induction over a run, packaged: what every cycle of the run keeps holds at its end. -/
theorem foldRegs_induct {c : Config} {P : Regs → Prop} {vs : List InVec} {r : Regs}
    (hstep : ∀ q, ∀ v ∈ vs, P q → P (nextRegs c v q)) (h : P r) : P (foldRegs c r vs) := by
  induction vs generalizing r with
  | nil => exact h
  | cons v vs ih =>
    exact ih (fun q w hw => hstep q w (List.mem_cons_of_mem _ hw)) (hstep r v List.mem_cons_self h)

end Sys2Proof.Machine
end

