-- ==== Sys2Proof/Laws/Block.lean ====
section
/-! SUPPORT. The block's own step function, part by part, in terms of the decoded operations. -/

namespace Sys2Proof.Machine

/-- The byte that the decoded host operation puts out is the addressed one in a read (R33). -/
theorem hostByte_decodeHost (v : InVec) (r : Regs) :
    hostByte (decodeHost v) r = if vecSel v && !vecWe v then memRead r (vecAddr v) else 0x00#8 := by
  unfold decodeHost
  cases vecSel v
  · rfl
  cases vecWe v
  · simp only [Bool.false_eq_true, if_true, if_false, Bool.not_false, Bool.and_self]
    generalize vecAddr v = a
    obtain ⟨n, hn⟩ := a
    interval_cases n <;> rfl
  · simp only [if_true, Bool.not_true, Bool.and_false, Bool.false_eq_true, if_false]
    unfold decodeWrite
    repeat' split
    all_goals rfl

/-- What the host port's wires do to the registers is what the decoded host operation does (R34, R57). -/
theorem Regs.hostOp_eq (v : InVec) (r : Regs) : r.hostOp v = hostEffect (decodeHost v) r := by
  unfold Regs.hostOp decodeHost
  cases vecSel v
  · rfl
  cases vecWe v
  · simp only [Bool.and_false, Bool.false_eq_true, if_false, if_true]
    unfold decodeRead
    split <;> rfl
  · simp only [Bool.and_self, if_true]
    unfold memWrite decodeWrite commandOf
    by_cases ha : vecAddr v = 0x1#4
    · by_cases h0 : vecWdata v = 0x00#8
      · simp [ha, h0, Regs.command, hostEffect]
      by_cases h1 : vecWdata v = 0x01#8
      · simp [ha, h1, Regs.command, hostEffect]
      by_cases h2 : vecWdata v = 0x02#8
      · simp [ha, h2, Regs.command, hostEffect]
      · simp [ha, h0, h1, h2, hostEffect]
    · simp [ha, hostEffect]

theorem Regs.next_eq (c : Config) (v : InVec) (r : Regs) : r.next c v = nextRegs c v r := by
  simp only [Regs.next, nextRegs, Regs.hostOp_eq]
  cases vecTick v <;> simp

theorem Regs.outputs_eq (v : InVec) (r : Regs) : r.outputs v = cycleOut v r := by
  simp only [Regs.outputs, cycleOut, hostByte_decodeHost]
  cases vecRst v <;> simp

/-- What a step records as outputs is the function of R18 of the state and the input it started from, so
the record carries nothing that these two do not. -/
theorem step_out {s t : State} (h : step s = .next t) : t.out = s.regs.outputs s.nextInput := by
  obtain ⟨-, rfl⟩ := step_inv h
  rw [Regs.outputs_eq, State.after_out, State.takeInput_regs]

end Sys2Proof.Machine
end

