-- ==== Sys2Proof/Laws/PerInstr.lean ====
section
/-! SUPPORT. For every operation: the vector that the encoder writes is selected by the operation's own
row of the opcode map (30_encoding.md rule R56). -/

namespace Sys2Proof.Laws.EncodesRow

open Sys2Proof

/-- A row of the operation's name and slot selects its encoding. -/
def Statement (i : Instr) : Prop :=
  ∃ row ∈ opcodeMap,
    row.mnemonic = i.mnemonic ∧ row.slot = i.slot ∧ row.selects (encode i) = true

theorem reset : Statement .reset :=
  ⟨⟨"RESET", .reset, 0x10000#17, 0x10000#17⟩, by decide, rfl, rfl, by decide⟩
theorem tick : Statement .tick :=
  ⟨⟨"TICK", .tick, 0x18000#17, 0x08000#17⟩, by decide, rfl, rfl, by decide⟩
theorem sample0 : Statement .sample0 :=
  ⟨⟨"SAMPLE0", .pin, 0x14000#17, 0x00000#17⟩, by decide, rfl, rfl, by decide⟩
theorem sample1 : Statement .sample1 :=
  ⟨⟨"SAMPLE1", .pin, 0x14000#17, 0x04000#17⟩, by decide, rfl, rfl, by decide⟩
theorem idle : Statement .idle :=
  ⟨⟨"IDLE", .host, 0x12000#17, 0x00000#17⟩, by decide, rfl, rfl, by decide⟩
theorem nop : Statement .nop :=
  ⟨⟨"NOP", .host, 0x13FFF#17, 0x03100#17⟩, by decide, rfl, rfl, by decide⟩
theorem snap : Statement .snap :=
  ⟨⟨"SNAP", .host, 0x13FFF#17, 0x03101#17⟩, by decide, rfl, rfl, by decide⟩
theorem clrw : Statement .clrw :=
  ⟨⟨"CLRW", .host, 0x13FFF#17, 0x03102#17⟩, by decide, rfl, rfl, by decide⟩
theorem rdStatus : Statement .rdStatus :=
  ⟨⟨"RD.STATUS", .host, 0x13F00#17, 0x02000#17⟩, by decide, rfl, rfl, by decide⟩
theorem rdCmd : Statement .rdCmd :=
  ⟨⟨"RD.CMD", .host, 0x13F00#17, 0x02100#17⟩, by decide, rfl, rfl, by decide⟩
theorem rdSub : Statement .rdSub :=
  ⟨⟨"RD.SUB", .host, 0x13F00#17, 0x02200#17⟩, by decide, rfl, rfl, by decide⟩
theorem rdRsv3 : Statement .rdRsv3 :=
  ⟨⟨"RD.RSV3", .host, 0x13F00#17, 0x02300#17⟩, by decide, rfl, rfl, by decide⟩
theorem rdSnap0 : Statement .rdSnap0 :=
  ⟨⟨"RD.SNAP0", .host, 0x13F00#17, 0x02400#17⟩, by decide, rfl, rfl, by decide⟩
theorem rdSnap1 : Statement .rdSnap1 :=
  ⟨⟨"RD.SNAP1", .host, 0x13F00#17, 0x02500#17⟩, by decide, rfl, rfl, by decide⟩
theorem rdSnap2 : Statement .rdSnap2 :=
  ⟨⟨"RD.SNAP2", .host, 0x13F00#17, 0x02600#17⟩, by decide, rfl, rfl, by decide⟩
theorem rdSnap3 : Statement .rdSnap3 :=
  ⟨⟨"RD.SNAP3", .host, 0x13F00#17, 0x02700#17⟩, by decide, rfl, rfl, by decide⟩
theorem rdStart0 : Statement .rdStart0 :=
  ⟨⟨"RD.START0", .host, 0x13F00#17, 0x02800#17⟩, by decide, rfl, rfl, by decide⟩
theorem rdStart1 : Statement .rdStart1 :=
  ⟨⟨"RD.START1", .host, 0x13F00#17, 0x02900#17⟩, by decide, rfl, rfl, by decide⟩
theorem rdStart2 : Statement .rdStart2 :=
  ⟨⟨"RD.START2", .host, 0x13F00#17, 0x02A00#17⟩, by decide, rfl, rfl, by decide⟩
theorem rdStart3 : Statement .rdStart3 :=
  ⟨⟨"RD.START3", .host, 0x13F00#17, 0x02B00#17⟩, by decide, rfl, rfl, by decide⟩
theorem rdDecH : Statement .rdDecH :=
  ⟨⟨"RD.DEC_H", .host, 0x13F00#17, 0x02C00#17⟩, by decide, rfl, rfl, by decide⟩
theorem rdDecM : Statement .rdDecM :=
  ⟨⟨"RD.DEC_M", .host, 0x13F00#17, 0x02D00#17⟩, by decide, rfl, rfl, by decide⟩
theorem rdDecS : Statement .rdDecS :=
  ⟨⟨"RD.DEC_S", .host, 0x13F00#17, 0x02E00#17⟩, by decide, rfl, rfl, by decide⟩
theorem rdRsvf : Statement .rdRsvf :=
  ⟨⟨"RD.RSVF", .host, 0x13F00#17, 0x02F00#17⟩, by decide, rfl, rfl, by decide⟩
theorem wrIgn (addr : Addr) (wdata : Byte) : Statement (.wrIgn addr wdata) :=
  ⟨⟨"WR.IGN", .host, 0x13000#17, 0x03000#17⟩, by decide, rfl, rfl, by
    have hma : vecAddr 0x13000#17 = 0x0#4 := by decide
    have hmw : vecWdata 0x13000#17 = 0x00#8 := by decide
    have hpa : vecAddr 0x03000#17 = 0x0#4 := by decide
    have hpw : vecWdata 0x03000#17 = 0x00#8 := by decide
    rw [OpcodeRow.selects_iff]
    simp only [encode, vecRst_vecOf, vecTick_vecOf, vecPin_vecOf, vecSel_vecOf, vecWe_vecOf,
      vecAddr_vecOf, vecWdata_vecOf, hma, hmw, hpa, hpw, BitVec.and_zero]
    decide⟩

end Sys2Proof.Laws.EncodesRow
end

