-- ==== Sys2Proof/Tests/Slice0.lean ====
section
/-! SUPPORT. The model's own tests: well-formedness smoke, decoding of written-out vectors, one step
of each operation on the spec's vectors (95_test_vectors.md), and the witnesses of the statements. -/

namespace Sys2Proof.Tests

open Sys2Proof.Machine

/-- The registers as the spec's vectors write them: `(CLOCK, SUB, START, WAKE, SNAP, SY1 SY2 PREV)`. -/
def regsOf (clock sub start : Nat) (wake : Bool) (snap : Nat) (sy1 sy2 prev : Bool) : Regs where
  clock := BitVec.ofNat 32 clock
  sub := BitVec.ofNat 8 sub
  start := BitVec.ofNat 32 start
  wake := wake
  snap := BitVec.ofNat 32 snap
  sy1 := sy1
  sy2 := sy2
  prev := prev

/-- A state of the test configuration with given registers and the vector of its next cycle. -/
def stateOf (r : Regs) (v : Nat) : State :=
  { State.reset with regs := r, inputs := [BitVec.ofNat 17 v] }

/-- The next registers and outputs of a step, if there are any. -/
def nextOf (o : Host.Outcome State Fault Refusal) : Option (Regs × Output) :=
  match o with
  | .next t => some (t.regs, t.out)
  | .fault _ => none
  | .refused _ => none

/-! ## Well-formedness: each check refuses an ill-formed term -/

theorem test_wf_refuses_nop_as_ignored_write : (Instr.wrIgn 0x1#4 0x00#8).wf = false := by decide
theorem test_wf_refuses_snap_as_ignored_write : (Instr.wrIgn 0x1#4 0x01#8).wf = false := by decide
theorem test_wf_refuses_clrw_as_ignored_write : (Instr.wrIgn 0x1#4 0x02#8).wf = false := by decide
theorem test_wf_admits_reserved_opcode : (Instr.wrIgn 0x1#4 0x03#8).wf = true := by decide
theorem test_wf_refuses_tick_in_host_slot : (Cycle.run .tick false false).wf = false := by decide
theorem test_wf_refuses_ill_formed_host_operation :
    (Cycle.run (.wrIgn 0x1#4 0x02#8) true true).wf = false := by decide
theorem test_config_standard_legal : Config.standard.Legal := by decide
theorem test_config_refuses_zero_increment :
    ¬ ({ Config.standard with incMs := 0 } : Config).Legal := by decide
theorem test_config_refuses_zero_period :
    ¬ ({ Config.standard with corrPeriod := 0 } : Config).Legal := by decide
theorem test_config_refuses_long_period :
    ¬ ({ Config.standard with corrPeriod := 256 } : Config).Legal := by decide
theorem test_config_refuses_zero_threshold :
    ¬ ({ Config.standard with wrapMs := 0 } : Config).Legal := by decide
theorem test_config_refuses_long_day :
    ¬ ({ Config.standard with wrapMs := 86400001 } : Config).Legal := by decide
theorem test_config_refuses_hour_24 :
    ¬ ({ Config.standard with initH := 24, initM := 0 } : Config).Legal := by decide
theorem test_config_refuses_minute_60 :
    ¬ ({ Config.standard with initM := 60 } : Config).Legal := by decide
theorem test_config_refuses_second_60 :
    ¬ ({ Config.standard with initS := 60 } : Config).Legal := by decide
theorem test_config_refuses_start_beyond_threshold :
    ¬ ({ Config.standard with wrapMs := 77400000 } : Config).Legal := by decide
theorem test_config_refuses_joint_overflow :
    ¬ ({ Config.standard with corrMs := 4294967295 } : Config).Legal := by decide

/-! ## Decoding of vectors written out from R51 and R56 (95_test_vectors.md section 2.6) -/

theorem test_decode_reset : (decode 0b1_0_0_0_0_0000_00000000#17).ops = [.reset] := by decide
theorem test_decode_reset_ignores_the_rest :
    (decode 0b1_1_1_1_1_1111_11111111#17).ops = [.reset] := by decide
theorem test_decode_idle : (decode 0b0_0_0_0_0_0000_00000000#17).ops = [.idle, .sample0] := by decide
theorem test_decode_idle_ignores_command :
    (decode 0b0_0_0_0_1_0001_00000010#17).ops = [.idle, .sample0] := by decide
theorem test_decode_sample1 : (decode 0b0_0_1_0_0_0000_00000000#17).ops = [.idle, .sample1] := by decide
theorem test_decode_tick :
    (decode 0b0_1_0_0_0_0000_00000000#17).ops = [.idle, .tick, .sample0] := by decide
theorem test_decode_tick_snap_pin1 :
    (decode 0b0_1_1_1_1_0001_00000001#17).ops = [.snap, .tick, .sample1] := by decide
theorem test_decode_nop : (decode 0b0_0_0_1_1_0001_00000000#17).ops = [.nop, .sample0] := by decide
theorem test_decode_clrw : (decode 0b0_0_0_1_1_0001_00000010#17).ops = [.clrw, .sample0] := by decide
theorem test_decode_reserved_opcode :
    (decode 0b0_0_0_1_1_0001_00000011#17).ops = [.wrIgn 0x1#4 0x03#8, .sample0] := by decide
theorem test_decode_write_to_status :
    (decode 0b0_0_0_1_1_0000_00000001#17).ops = [.wrIgn 0x0#4 0x01#8, .sample0] := by decide
theorem test_decode_write_to_subcnt :
    (decode 0b0_0_0_1_1_0010_00000010#17).ops = [.wrIgn 0x2#4 0x02#8, .sample0] := by decide
theorem test_decode_reads_low_half :
    [0b0_0_0_1_0_0000_00000000#17, 0b0_0_0_1_0_0001_00000000#17, 0b0_0_0_1_0_0010_00000000#17,
      0b0_0_0_1_0_0011_00000000#17, 0b0_0_0_1_0_0100_00000000#17, 0b0_0_0_1_0_0101_00000000#17,
      0b0_0_0_1_0_0110_00000000#17, 0b0_0_0_1_0_0111_00000000#17].map decodeHost
      = [.rdStatus, .rdCmd, .rdSub, .rdRsv3, .rdSnap0, .rdSnap1, .rdSnap2, .rdSnap3] := by decide
theorem test_decode_reads_high_half :
    [0b0_0_0_1_0_1000_00000000#17, 0b0_0_0_1_0_1001_00000000#17, 0b0_0_0_1_0_1010_00000000#17,
      0b0_0_0_1_0_1011_00000000#17, 0b0_0_0_1_0_1100_11111111#17, 0b0_0_0_1_0_1101_00000000#17,
      0b0_0_0_1_0_1110_00000000#17, 0b0_0_0_1_0_1111_00000000#17].map decodeHost
      = [.rdStart0, .rdStart1, .rdStart2, .rdStart3, .rdDecH, .rdDecM, .rdDecS, .rdRsvf] := by decide
theorem test_decode_number_rejects_18_bits :
    decodeNumber 0x20000 = .error .widerThanVector := by rfl
theorem test_table_word_of_tick : decodeTableWord 24 0x08000 = some .tick := by decide
theorem test_table_word_of_write : decodeTableWord 24 0x03000 = some (.wrIgn 0x0#4 0x00#8) := by decide

/-! ## One step of each operation, results from the spec's own vectors -/

/-- V-R1, V-R2: the tick, the snapshot and the pin level of the cycle are lost. -/
theorem test_step_reset :
    nextOf (step (stateOf (regsOf 77400085 5 77400000 true 77400085 true true true) 0x1F101))
      = some (regsOf 77400000 0 77400000 false 0 false false false, ⟨true, 0x00#8⟩) := by decide
/-- V-T2. -/
theorem test_step_correction_tick :
    nextOf (step (stateOf (regsOf 77400136 8 77400000 false 0 false false false) 0x08000))
      = some (regsOf 77400160 0 77400000 false 0 false false false, ⟨false, 0x00#8⟩) := by decide
/-- V-T7: a wrap caused by the correction alone. -/
theorem test_step_wrap_by_correction :
    nextOf (step (stateOf (regsOf 86398980 8 77400000 false 0 false false false) 0x08000))
      = some (regsOf 0 0 0 false 0 false false false, ⟨false, 0x00#8⟩) := by decide
/-- V-T4: the largest value that does not wrap. -/
theorem test_tick_below_threshold :
    (regsOf 86398982 6 77400000 false 0 false false false).tick Config.standard
      = regsOf 86398999 7 77400000 false 0 false false false := by decide
/-- V-T5: the smallest transient that wraps. -/
theorem test_tick_at_threshold :
    (regsOf 86398983 0 77400000 false 0 false false false).tick Config.standard
      = regsOf 0 1 0 false 0 false false false := by decide
/-- The worked example of R91. -/
theorem test_step_sample0_edge :
    nextOf (step (stateOf (regsOf 0 0 0 false 0 true true false) 0x00000))
      = some (regsOf 0 0 0 true 0 false true true, ⟨false, 0x00#8⟩) := by decide
/-- The worked example of R92. -/
theorem test_step_sample1_no_edge :
    nextOf (step (stateOf (regsOf 0 0 0 false 0 false false false) 0x04000))
      = some (regsOf 0 0 0 false 0 true false false, ⟨false, 0x00#8⟩) := by decide
/-- V-W0: the whole table of `SAMPLE`. -/
theorem test_sample_table :
    ∀ a b c l : Bool, (regsOf 5 1 5 false 3 a b c).sample l = regsOf 5 1 5 (b != c) 3 l a b := by
  decide
/-- The worked example of R90. -/
theorem test_step_clrw :
    nextOf (step (stateOf (regsOf 1 1 1 true 1 false false false) 0x03102))
      = some (regsOf 1 1 1 false 1 false false false, ⟨true, 0x00#8⟩) := by decide
/-- V-W6: set wins over clear. -/
theorem test_step_clrw_meets_edge :
    nextOf (step (stateOf (regsOf 1 1 1 true 1 false false true) 0x03102))
      = some (regsOf 1 1 1 true 1 false false false, ⟨true, 0x00#8⟩) := by decide
/-- V-S3: the snapshot holds the value before the tick of its cycle. -/
theorem test_step_snap_with_tick :
    nextOf (step (stateOf (regsOf 81061011 3 77400000 false 0 false false false) 0x0B101))
      = some (regsOf 81061028 4 77400000 false 81061011 false false false, ⟨false, 0x00#8⟩) := by
  decide
/-- V-X3: everything at once. -/
theorem test_step_everything_at_once :
    nextOf (step (stateOf (regsOf 77400136 8 77400000 true 0 true true false) 0x0F102))
      = some (regsOf 77400160 0 77400000 true 0 true true true, ⟨true, 0x00#8⟩) := by decide
/-- V-S5: `RD.SUB` in the cycle of a tick returns the value before it. -/
theorem test_step_rdSub_with_tick :
    nextOf (step (stateOf (regsOf 77400068 4 77400000 false 0 false false false) 0x0A200))
      = some (regsOf 77400085 5 77400000 false 0 false false false, ⟨false, 0x04#8⟩) := by decide
/-- V-R4: a read under reset returns zero. -/
theorem test_step_read_under_reset :
    (nextOf (step (stateOf (Regs.reset Config.standard) 0x12800))).map Prod.snd
      = some ⟨false, 0x00#8⟩ := by decide
/-- V-X3 again, of the block by itself: no input and no parameter is kept. -/
theorem test_blockStep_everything_at_once :
    blockStep Config.standard (regsOf 77400136 8 77400000 true 0 true true false) 0x0F102#17
      = (regsOf 77400160 0 77400000 true 0 true true true, ⟨true, 0x00#8⟩) := by decide
/-- P2, cycles 8 and 9: the outputs of the block over two cycles. -/
theorem test_blockRun_outputs :
    blockRun Config.standard (regsOf 77400051 3 77400000 true 0 true true true) [0x07101#17, 0x0EC00#17]
      = (regsOf 77400068 4 77400000 true 77400051 true true true,
          [⟨true, 0x00#8⟩, ⟨true, 0x21#8⟩]) := by decide
/-- P5: writes and reads that change nothing. -/
theorem test_ignored_accesses :
    [0x07103, 0x071FF, 0x07000, 0x074AA, 0x07855, 0x07F01, 0x06100, 0x06300, 0x06F00, 0x07100].map
        (fun v => nextOf (step (stateOf (regsOf 77400034 2 77400000 true 0 true true true) v)))
      = List.replicate 10
          (some (regsOf 77400034 2 77400000 true 0 true true true, ⟨true, 0x00#8⟩)) := by decide
/-- V-S1: the sixteen reads in the reset state. -/
theorem test_reads_at_reset :
    (List.range 16).map (fun a => memRead (Regs.reset Config.standard) (BitVec.ofNat 4 a))
      = [0x00#8, 0x00#8, 0x00#8, 0x00#8, 0x00#8, 0x00#8, 0x00#8, 0x00#8,
         0xC0#8, 0x07#8, 0x9D#8, 0x04#8, 0x00#8, 0x00#8, 0x00#8, 0x00#8] := by decide
/-- R107 to R110, R115 to R117: the bytes of the snapshot 0x04D4E493 and its digits. -/
theorem test_reads_of_a_snapshot :
    [0x4#4, 0x5#4, 0x6#4, 0x7#4, 0xC#4, 0xD#4, 0xE#4].map
        (memRead (regsOf 0 7 0 true 81061011 false false false))
      = [0x93#8, 0xE4#8, 0xD4#8, 0x04#8, 0x22#8, 0x31#8, 0x01#8] := by decide
/-- R103, R105: the flag and the count. -/
theorem test_reads_of_flag_and_count :
    [0x0#4, 0x2#4].map (memRead (regsOf 0 7 0 true 0 false false false)) = [0x01#8, 0x07#8] := by
  decide
/-- R125 and section 2.4. -/
theorem test_decode_times :
    [999, 59999, 3600000, 35999999, 45296789, 86398999, 86399999].map
        (fun t => (packedHours (decodeTime t), packedMinutes (decodeTime t),
          packedSeconds (decodeTime t)))
      = [(0x00#8, 0x00#8, 0x00#8), (0x00#8, 0x00#8, 0x59#8), (0x01#8, 0x00#8, 0x00#8),
         (0x09#8, 0x59#8, 0x59#8), (0x12#8, 0x34#8, 0x56#8), (0x23#8, 0x59#8, 0x58#8),
         (0x23#8, 0x59#8, 0x59#8)] := by decide
/-- U6: an ill-formed configuration is refused. -/
theorem test_step_refuses_ill_formed_config :
    nextOf (step { State.reset with cfg := { Config.standard with incMs := 0 } }) = none := by decide
/-- A word placed for the next cycle is what the next step runs. -/
theorem test_withFetchWord_runs :
    nextOf (step (State.reset.withFetchWord 24 0x08000))
      = some (regsOf 77400017 1 77400000 false 0 false false false, ⟨false, 0x00#8⟩) := by decide

/-! ## Traces (R61, R62) -/

/-- The example of R61. -/
theorem test_trace_text_of_R61 :
    (parseTrace "TICK, PIN 1, SNAP").map (assemble Config.standard) = some [0x0F101#17] := by decide
/-- Cycle 9 of P2, after its `PIN 1`, and P6's first line. -/
theorem test_trace_text_keeps_the_pin_level :
    (parseTrace "PIN 1 -- pressed\nTICK, RD DEC_H\nRESET, TICK, SNAP\nWR 0x4 0xAA").map
        (assemble Config.standard)
      = some [0x04000#17, 0x0EC00#17, 0x1F101#17, 0x074AA#17] := by decide
theorem test_trace_text_pseudo :
    (parseTrace "IDLE 2\nTICKS 2\nRDTIME").map (assemble Config.standard)
      = some [0x00000#17, 0x00000#17, 0x08000#17, 0x08000#17, 0x02C00#17, 0x02D00#17, 0x02E00#17] := by
  decide
theorem test_trace_text_refuses_two_host_operations :
    parseTrace "SNAP, CLRW" = none := by decide
theorem test_trace_text_refuses_count_zero : parseTrace "TICKS 0" = none := by decide

/-! ## Host programs and pin waveforms (U2, U3, U5) -/

theorem test_cautious_program :
    cautiousInputs [0x10000#17, 0x03101#17, 0x02C00#17, 0x03102#17, 0x0C000#17] = true ∧
    cautiousInputs [0x03103#17] = false ∧ cautiousInputs [0x03001#17] = false ∧
    cautiousInputs [0x02300#17] = false := by decide
theorem test_admits_changing_pin :
    admitsAll [.stable false, .changing false, .stable true] [false, false, true] = true ∧
    admitsAll [.stable false, .changing false, .stable true] [false, true, true] = true ∧
    admitsAll [.stable false, .changing false, .stable true] [true, true, true] = false := by decide

/-! ## Witnesses: concrete states and operands that meet the hypotheses of the statements -/

/-- The state that an outcome answers has the property `p`. -/
def meets {σ φ ρ : Type} (o : Host.Outcome σ φ ρ) (p : σ → Bool) : Bool :=
  match o with
  | .next t => p t
  | .fault _ => false
  | .refused _ => false

/-- An outcome is a next state, and the state has the property `p`. -/
def Answers {σ φ ρ : Type} (o : Host.Outcome σ φ ρ) (p : σ → Bool) : Prop :=
  ∃ t, o = .next t ∧ p t = true

theorem answers_of_meets {σ φ ρ : Type} {o : Host.Outcome σ φ ρ} {p : σ → Bool}
    (h : meets o p = true) : Answers o p := by
  cases o with
  | next t => exact ⟨t, rfl, h⟩
  | fault _ => cases h
  | refused _ => cases h

/-- Legal parameters with a short day, so that a run reaches a wrap at once: 10 ms, 3 ms every fourth
tick, a threshold of 1010 ms and a start at 00:00:01. -/
def shortDay : Config :=
  { incMs := 10, corrPeriod := 4, corrMs := 3, wrapMs := 1010, initH := 0, initM := 0, initS := 1,
    pinIdle := false }

theorem witness_shortDay_legal : shortDay.Legal := by decide

/-- SlotDecodeOfEncodeIsTheOperation, CycleDecodeOfEncodeIsTheCycle. -/
theorem witness_wf_operations :
    (Instr.wrIgn 0x1#4 0x03#8).wf = true ∧ (Instr.wrIgn 0xF#4 0xFF#8).wf = true ∧
    (Instr.wrIgn 0x0#4 0x00#8).wf = true ∧ (Cycle.run .rdRsvf true true).wf = true := by decide

/-- VectorsThatDifferInIgnoredBitsHaveTheSameEffect: the three kinds of ignored bits. -/
theorem witness_same_but_ignored :
    sameButIgnored 0x1FFFF#17 0x10000#17 = true ∧ sameButIgnored 0x01102#17 0x00000#17 = true ∧
    sameButIgnored 0x02CFF#17 0x02C00#17 = true ∧ sameButIgnored 0x03102#17 0x03101#17 = false := by
  decide

/-- EveryCycleSelectsOneHostAndOnePinOperation: each clause. -/
theorem witness_slots :
    vecRst 0x10000#17 = true ∧ vecRst 0x0FFFF#17 = false ∧ vecTick 0x0FFFF#17 = true ∧
    vecTick 0x07FFF#17 = false := by decide

/-- StepRunsTheDecodedOperations, StepIsTheRegisterTransferForm: both clauses. -/
theorem witness_step_runs :
    State.reset.cfg.Legal ∧ State.reset.inputs = [] ∧
    (stateOf (Regs.reset Config.standard) 0x0F101).inputs = 0x0F101#17 :: [] := by decide

/-- TableWordIsRunByTheNextStep: the largest word. -/
theorem witness_table_word :
    State.reset.cfg.Legal ∧ decodeTableWord 24 0x1FFFF = some .reset := by decide

/-- OnlyRegistersParametersAndInputDetermineTheStep: two states that differ in the outputs alone. -/
theorem witness_same_registers :
    (stateOf (regsOf 1 1 1 true 1 true true false) 0x0F101).nextInput
      = ({ stateOf (regsOf 1 1 1 true 1 true true false) 0x0F101 with out := ⟨true, 0xFF#8⟩ }
          : State).nextInput ∧
    Answers (step (stateOf (regsOf 1 1 1 true 1 true true false) 0x0F101)) fun t => t.out.irq :=
  ⟨rfl, answers_of_meets (by decide)⟩

/-- ResetLoadsEveryRegisterAndOverridesTheCycle: a reset held for two cycles. -/
theorem witness_reset_held :
    (∀ v ∈ [0x1F101#17, 0x10000#17], vecRst v = true) ∧
    Answers (runInputs (stateOf (regsOf 5 5 5 true 5 true false true) 0) [0x1F101#17, 0x10000#17])
      fun t => t.regs == Regs.reset Config.standard :=
  ⟨by simp [vecRst], answers_of_meets (by decide)⟩

/-- RunsThatStartWithResetForgetTheStateBefore. -/
theorem witness_starts_with_reset :
    shortDay.Legal ∧ startsWithReset [0x1FFFF#17, 0x08000#17] = true := by decide

/-- EveryStepKeepsTheInvariantsAtRest: a safe state on the last millisecond and count. -/
theorem witness_safe_state :
    (stateOf (regsOf 86398999 8 77400000 true 86398999 true true false) 0x0B101).Safe ∧
    Answers (step (stateOf (regsOf 86398999 8 77400000 true 86398999 true true false) 0x0B101))
      fun t => t.regs == regsOf 0 0 0 true 86398999 false true true :=
  ⟨⟨by decide, ⟨by decide, by decide, by decide, by decide⟩⟩, answers_of_meets (by decide)⟩

/-- InvariantsAtRestHoldInEveryReachableState: a reachable state, and a run whose first cycle wraps
(1000 + 10 >= 1010), so that `START` is 0 at its end. -/
theorem witness_reachable_wrap :
    Answers (runInputs (State.resetOf shortDay) []) (fun s => s.regs.tickWraps shortDay) ∧
    vecRst 0x08000#17 = false ∧ vecTick 0x08000#17 = true ∧
    Answers (runInputs (State.resetOf shortDay) [0x08000#17, 0x0C000#17])
      fun t => t.regs.start == 0#32 && t.regs.clock == 10#32 :=
  ⟨answers_of_meets (by decide), by decide, by decide, answers_of_meets (by decide)⟩

/-- DriftCorrectionLaw: nine ticks with cycles between them, from the last state in which they do not
wrap (86,398,839 + 160 = 86,398,999); one millisecond later the bound fails. -/
theorem witness_drift :
    (∀ v ∈ List.flatten (List.replicate 9 [0x0C000#17, 0x04000#17]), vecRst v = false) ∧
    ((List.flatten (List.replicate 9 [0x0C000#17, 0x04000#17])).filter vecTick).length
      = Config.standard.corrPeriod ∧
    86398839 + 9 * Config.standard.incMs + (0 + 9) / Config.standard.corrPeriod * Config.standard.corrMs
      < Config.standard.wrapMs ∧
    ¬ 86398840 + 9 * Config.standard.incMs
        + (0 + 9) / Config.standard.corrPeriod * Config.standard.corrMs < Config.standard.wrapMs :=
  ⟨by simp [List.replicate, vecRst], by decide, by decide, by decide⟩

/-- ClockIncreasesBetweenWraps, StartResetsInLockstepWithTheClock: both clauses where they meet (V-T4
and V-T5), in a step. -/
theorem witness_wrap_boundary :
    (regsOf 86398982 6 77400000 false 0 false false false).tickWraps Config.standard = false ∧
    (regsOf 86398983 0 77400000 false 0 false false false).tickWraps Config.standard = true ∧
    Answers (step (stateOf (regsOf 86398982 6 77400000 false 0 false false false) 0x08000))
      (fun t => t.regs.start == 77400000#32) ∧
    Answers (step (stateOf (regsOf 86398983 0 77400000 false 0 false false false) 0x08000))
      fun t => t.regs.start == 0#32 :=
  ⟨by decide, by decide, answers_of_meets (by decide), answers_of_meets (by decide)⟩

/-- EnoughTicksAlwaysReachAWrap: 101 ticks of 10 ms in a day of 1010 ms, and a cycle without tick. -/
theorem witness_enough_ticks :
    (∀ v ∈ 0x04000#17 :: List.replicate 101 0x08000#17, vecRst v = false) ∧
    shortDay.wrapMs
      ≤ ((0x04000#17 :: List.replicate 101 0x08000#17).filter vecTick).length * shortDay.incMs :=
  ⟨by simp [vecRst], by decide⟩

/-- EachRegisterChangesOnlyByItsWriters: each register changes by each of its writers somewhere. -/
theorem witness_writers :
    nextOf (exec .tick (stateOf (regsOf 86398999 7 77400000 false 0 true true true) 0))
      = some (regsOf 0 8 0 false 0 true true true, ⟨false, 0x00#8⟩) ∧
    nextOf (exec .sample0 (stateOf (regsOf 1 1 1 false 1 true true false) 0))
      = some (regsOf 1 1 1 true 1 false true true, ⟨false, 0x00#8⟩) ∧
    nextOf (exec .clrw (stateOf (regsOf 1 1 1 true 1 true true false) 0))
      = some (regsOf 1 1 1 false 1 true true false, ⟨true, 0x00#8⟩) ∧
    nextOf (exec .snap (stateOf (regsOf 9 1 1 false 1 true true false) 0))
      = some (regsOf 9 1 1 false 9 true true false, ⟨false, 0x00#8⟩) ∧
    nextOf (exec .reset (stateOf (regsOf 9 1 1 true 1 true true false) 0))
      = some (regsOf 77400000 0 77400000 false 0 false false false, ⟨true, 0x00#8⟩) := by decide

/-- SetWinsOverClear: the flag clear and set before. -/
theorem witness_set_over_clear :
    hostOpIs 0x03102#17 .clrw = true ∧ (regsOf 1 1 1 true 1 false false true).edge = true ∧
    (regsOf 1 1 1 false 1 false true false).edge = true := by decide

/-- WakeFallsOnlyByClrwOrReset: both clauses. -/
theorem witness_wake_falls :
    Answers (step (stateOf (regsOf 1 1 1 true 1 true false false) 0x03102)) (fun t => !t.regs.wake) ∧
    Answers (step (stateOf (regsOf 1 1 1 true 1 false true false) 0x10000)) fun t => !t.regs.wake :=
  ⟨answers_of_meets (by decide), answers_of_meets (by decide)⟩

/-- WakeRisesOnlyByAnEdge. -/
theorem witness_wake_rises :
    Answers (step (stateOf (regsOf 1 1 1 false 1 false false true) 0x08000)) fun t => t.regs.wake :=
  answers_of_meets (by decide)

/-- CapturedChangeSetsWakeInTheThirdCycle: a pulse captured in one cycle, from the reset state. -/
theorem witness_captured_change :
    (Regs.reset Config.standard).wake = false ∧ (Regs.reset Config.standard).sy1 = false ∧
    (Regs.reset Config.standard).sy2 = false ∧ (Regs.reset Config.standard).prev = false ∧
    vecPin 0x04000#17 = !false ∧
    vecRst 0x04000#17 = false ∧ vecRst 0x00000#17 = false ∧ vecRst 0x08000#17 = false ∧
    hostOpIs 0x02000#17 .rdStatus = true := by decide

/-- ChangingPinSetsWakeForEveryAdmittedCapture: both levels that the change may be captured at. -/
theorem witness_changing_pin :
    admitsAll [.changing false, .stable true, .stable true, .stable false]
      (List.map vecPin [0x00000#17, 0x04000#17, 0x04000#17, 0x00000#17]) = true ∧
    admitsAll [.changing false, .stable true, .stable true, .stable false]
      (List.map vecPin [0x04000#17, 0x04000#17, 0x04000#17, 0x00000#17]) = true ∧
    (∀ v ∈ [0x00000#17, 0x04000#17, 0x04000#17, 0x00000#17],
      vecRst v = false ∧ hostOpIs v .clrw = false) :=
  ⟨by decide, by decide, by
    simp only [List.forall_mem_cons, List.not_mem_nil, false_imp_iff, implies_true]
    decide⟩

/-- WakeIsStickyOverEveryRunWithoutClear, TicksAndHostNeverWakeWhileThePinRests: vectors of such runs. -/
theorem witness_runs_without_clear :
    (∀ v ∈ [0x0F101#17, 0x02000#17, 0x04000#17], vecRst v = false ∧ hostOpIs v .clrw = false) ∧
    (∀ v ∈ [0x0B101#17, 0x03102#17], vecRst v = false) ∧
    pinRests Config.standard [0x0B101#17, 0x03102#17] = true := by
  simp only [List.forall_mem_cons, List.not_mem_nil, false_imp_iff, implies_true]
  decide

/-- HeldPinWakesThreeCyclesAfterReset: P6. -/
theorem witness_held_pin :
    vecRst 0x1F101#17 = true ∧ vecRst 0x04000#17 = false ∧
    vecPin 0x04000#17 = !Config.standard.pinIdle := by decide

/-- SnapshotAndReadsSeeTheValueBeforeTheTick: every host operation of its clauses, with a tick. -/
theorem witness_host_operations_with_tick :
    hostOpIs 0x0B101#17 .snap = true ∧ hostOpIs 0x0A200#17 .rdSub = true ∧
    hostOpIs 0x0A800#17 .rdStart0 = true ∧ hostOpIs 0x0A900#17 .rdStart1 = true ∧
    hostOpIs 0x0AA00#17 .rdStart2 = true ∧ hostOpIs 0x0EBFF#17 .rdStart3 = true ∧
    (∀ v ∈ [0x0B101#17, 0x0A200#17, 0x0A800#17, 0x0A900#17, 0x0AA00#17, 0x0EBFF#17],
      vecRst v = false ∧ vecTick v = true) := by
  simp only [List.forall_mem_cons, List.not_mem_nil, false_imp_iff, implies_true]
  decide

/-- ReadsOfStartAndDigitsReturnTheirBytes: the last snapshot to which `Decode` gives a meaning. -/
theorem witness_last_decodable :
    decodable 86399999#32 = true ∧ decodable 86400000#32 = false ∧
    memRead (regsOf 0 0 0 false 86399999 false false false) 0xC#4 = 0x23#8 := by decide

/-- OutputsComeFromTheStateAtTheStartOfTheCycle: a read, and a read under reset. -/
theorem witness_outputs :
    Answers (step (stateOf (regsOf 0 8 0 true 0 false false false) 0x0A200))
      (fun t => t.out.rdata == 0x08#8) ∧
    Answers (step (stateOf (regsOf 0 8 0 true 0 false false false) 0x12200))
      fun t => t.out.rdata == 0x00#8 :=
  ⟨answers_of_meets (by decide), answers_of_meets (by decide)⟩

/-- OnlySnapAndClrwActFromTheHostSlot: a reserved opcode beside an idle slot, in a cycle with a tick. -/
theorem witness_ignored_beside_idle :
    nextOf (step (stateOf (regsOf 5 1 5 true 3 true false true) 0x0F103))
      = nextOf (step (stateOf (regsOf 5 1 5 true 3 true false true) 0x0C000)) := by decide

/-- SnapshotReadsAreOfOneValueOfTheClock: a read at each of its addresses, after a snapshot of the last
second, a wrapping tick, an edge and a clear. -/
theorem witness_snapshot_reads :
    (∀ w ∈ [0x0C000#17, 0x03102#17], vecRst w = false ∧ hostOpIs w .snap = false) ∧
    [0x02400#17, 0x02500#17, 0x02600#17, 0x02700#17, 0x02C00#17, 0x02D00#17, 0x02E00#17].map
        (fun r => (nextOf (runInputs (stateOf (regsOf 86398999 7 0 false 0 false false true) 0)
          [0x03101#17, 0x0C000#17, 0x03102#17, r])).map fun x => x.2.rdata)
      = [0x17#8, 0x58#8, 0x26#8, 0x05#8, 0x23#8, 0x59#8, 0x58#8].map some := by
  simp only [List.forall_mem_cons, List.not_mem_nil, false_imp_iff, implies_true]
  decide

/-- FrameOfTheRegisterSpace: each clause at the ends of its range of addresses, a change and an
address beside it that stays. -/
theorem witness_frame :
    (let r := regsOf 86398999 7 77400000 true 5 true false true
     let clear := r.clearWake
     let ticked := r.tick Config.standard
     let snapped := r.takeSnapshot
     memRead clear 0x0#4 ≠ memRead r 0x0#4 ∧ memRead clear 0x1#4 = memRead r 0x1#4 ∧
     memRead ticked 0x2#4 ≠ memRead r 0x2#4 ∧ memRead ticked 0x8#4 ≠ memRead r 0x8#4 ∧
     memRead ticked 0xB#4 ≠ memRead r 0xB#4 ∧ memRead ticked 0x7#4 = memRead r 0x7#4 ∧
     memRead ticked 0xC#4 = memRead r 0xC#4 ∧
     memRead snapped 0x4#4 ≠ memRead r 0x4#4 ∧ memRead snapped 0x7#4 ≠ memRead r 0x7#4 ∧
     memRead snapped 0xC#4 ≠ memRead r 0xC#4 ∧ memRead snapped 0xE#4 ≠ memRead r 0xE#4 ∧
     memRead snapped 0x3#4 = memRead r 0x3#4 ∧ memRead snapped 0x8#4 = memRead r 0x8#4 ∧
     memRead snapped 0xF#4 = memRead r 0xF#4) := by decide

/-- DecodeIsTheOnlyTimeOfDayOfASnapshot, PackedBytesReadAsDecimalTime: each clause's last argument. -/
theorem witness_decode :
    86399999 < 86400000 ∧ 86399999 = ((23 * 3600) + (59 * 60) + 59) * 1000 + 86399999 % 1000 ∧
    (86398999 : Nat) ≤ 86398999 := by decide

/-- CycleLinesAssembleToTheirOperations: a line of each kind, `WR` of each command opcode among them. -/
theorem witness_cycle_lines :
    decode (CycleLine.vector { reset := true, host := some .snap } true) = .reset ∧
    decode (CycleLine.vector {} true) = .run .idle false true ∧
    decode (CycleLine.vector { tick := true, host := some .clrw } false) = .run .clrw true false ∧
    decode (CycleLine.vector { host := some (.wr 0x1#4 0x00#8) } false) = .run .nop false false ∧
    decode (CycleLine.vector { host := some (.wr 0x1#4 0x01#8) } false) = .run .snap false false ∧
    decode (CycleLine.vector { host := some (.wr 0x1#4 0x02#8) } false) = .run .clrw false false ∧
    decode (CycleLine.vector { host := some (.wr 0xF#4 0xFF#8) } false)
      = .run (.wrIgn 0xF#4 0xFF#8) false false ∧
    decode (CycleLine.vector { host := some (.rd .rsvf) } false) = .run .rdRsvf false false := by decide
/-- The same, with `PIN` items: the level holds from the item's own line on (P3, cycles 3 to 6), also
where the block rests at 1. -/
theorem witness_pin_items :
    assembleCycles [{}, { pin := some true, host := some (.rd .status) }, {}, { pin := some false }, {}]
        false
      = [0x00000#17, 0x06000#17, 0x04000#17, 0x00000#17, 0x00000#17] ∧
    assemble { Config.standard with pinIdle := true } [.idle 1, .cycle { pin := some false, tick := true }]
      = [0x04000#17, 0x08000#17] := by decide

/-- The consumer with nothing shown yet, in a given phase. -/
def consumerAt (p : Phase) (ints : Bool) : Consumer :=
  { phase := p, intsEnabled := ints, sleepArmed := ints, decH := 0x00#8, decM := 0x00#8,
    decS := 0x00#8, displays := 0 }

/-- ConsumerShowsNothingWithoutAnEdge: reset state and a sleeping consumer, with ticks and other
interrupts. -/
theorem witness_consumer_without_edge :
    State.reset.cfg.Legal ∧ State.reset.regs.wake = false ∧ State.reset.regs.sy1 = false ∧
    State.reset.regs.sy2 = false ∧ State.reset.regs.prev = false ∧
    (consumerAt .asleep true).phase
      ∈ [Phase.checkStatus, .disableInts, .armSleep, .enableInts, .asleep, .disarm] ∧
    ∀ e ∈ List.replicate 3 (⟨true, false, true⟩ : Surroundings), e.pin = false := by decide

/-- OneWakeEventGivesOneDisplayAndAClearFlag: P2 from its cycle 7 on, with a tick in every cycle. -/
theorem witness_consumer_one_display :
    (stateOf (regsOf 77400051 3 77400000 true 0 true true true) 0).Safe ∧
    (consumerAt .checkStatus true).phase = .checkStatus ∧
    (∀ e ∈ List.replicate 7 (⟨true, true, false⟩ : Surroundings), e.pin = true) ∧
    (List.replicate 7 (⟨true, true, false⟩ : Surroundings)).length = 7 :=
  ⟨⟨by decide, ⟨by decide, by decide, by decide, by decide⟩⟩, by decide, by decide, by decide⟩

/-- PendingWakeEventIsDisplayedWithinElevenCycles: the phase that takes longest, and asleep. -/
theorem witness_consumer_eleven_cycles :
    (consumerAt .disableInts false).phase ≠ .clear ∧
    ((consumerAt .disableInts false).phase = .asleep → (consumerAt .disableInts false).intsEnabled) ∧
    (consumerAt .asleep true).phase ≠ .clear ∧
    ((consumerAt .asleep true).phase = .asleep → (consumerAt .asleep true).intsEnabled = true) ∧
    (List.replicate 11 (⟨false, false, false⟩ : Surroundings)).length = 11 := by decide
/-- One turn of the consumer: asleep, it is released by `irq`. -/
theorem test_turn_irq_releases_sleep :
    Answers (turn ⟨false, true, false⟩ (consumerAt .asleep true)
        (stateOf (regsOf 77400051 3 77400000 true 0 true true true) 0))
      fun x => x.1.phase == .disarm :=
  answers_of_meets (by decide)

end Sys2Proof.Tests
end

section
/-! Family 10_state: the invariants at rest (R17), who writes each register (R10), what a step depends
on (R18), and when `WAKE` rises (R15). -/

namespace Sys2Proof.Machine

/-! ## One inversion for `exec`, and the reset branch of a cycle -/

/-- Everything a single operation can do to the registers, slot by slot (R52). -/
theorem exec_regs_cases {i : Instr} {s t : State} (h : exec i s = .next t) :
    (i = .reset ∧ t.regs = Regs.reset s.cfg) ∨
    (i = .tick ∧ t.regs = s.regs.tick s.cfg) ∨
    ((i = .sample0 ∨ i = .sample1) ∧ ∃ b, t.regs = s.regs.sample b) ∨
    (i.slot = .host ∧ t.regs = hostEffect i s.regs) := by
  cases i with
  | reset =>
    obtain rfl := Host.Outcome.next.inj h
    exact .inl ⟨rfl, rfl⟩
  | tick =>
    obtain rfl := Host.Outcome.next.inj h
    exact .inr (.inl ⟨rfl, rfl⟩)
  | sample0 =>
    obtain rfl := Host.Outcome.next.inj h
    exact .inr (.inr (.inl ⟨.inl rfl, false, rfl⟩))
  | sample1 =>
    obtain rfl := Host.Outcome.next.inj h
    exact .inr (.inr (.inl ⟨.inr rfl, true, rfl⟩))
  | _ =>
    rw [exec_host rfl] at h
    obtain rfl := Host.Outcome.next.inj h
    exact .inr (.inr (.inr ⟨rfl, rfl⟩))

/-- A cycle with `rst = 1` loads the reset values, whatever the registers held (R160). -/
theorem nextRegs_of_reset (c : Config) {v : InVec} (h : vecRst v = true) (r : Regs) :
    nextRegs c v r = Regs.reset c := if_pos h

/-! ## The invariants at rest, operation by operation (R17) -/

theorem Regs.reset_atRest {c : Config} (hc : c.Legal) : (Regs.reset c).AtRest c where
  clock_lt := by rw [Regs.reset_clock, initMs_toNat hc]; omega
  sub_lt := by simp; omega
  snap_lt := by simp; omega
  start_eq := .inl (initMs_toNat hc)

/-- No host operation takes a register out of its range: `SNAP` copies a `CLOCK` within it. -/
theorem Regs.AtRest.hostEffect {c : Config} {r : Regs} (h : r.AtRest c) (i : Instr) :
    (Machine.hostEffect i r).AtRest c where
  clock_lt := by rw [hostEffect_clock]; exact h.clock_lt
  sub_lt := by rw [hostEffect_sub]; exact h.sub_lt
  snap_lt := by
    rw [hostEffect_snap]
    split
    · exact h.clock_lt
    · exact h.snap_lt
  start_eq := by rw [hostEffect_start]; exact h.start_eq

/-- The tick stores no sum at or above the threshold and no count at or above the period (R70). -/
theorem Regs.AtRest.tick {c : Config} (hc : c.Legal) {r : Regs} (h : r.AtRest c) :
    (r.tick c).AtRest c where
  clock_lt := by rw [Regs.tick_clock_toNat hc]; split <;> omega
  sub_lt := by rw [Regs.tick_sub_toNat hc]; exact Regs.tickCount_lt hc r
  snap_lt := by rw [Regs.tick_snap]; exact h.snap_lt
  start_eq := by
    rw [Regs.tick_start]
    split
    · exact .inr rfl
    · exact h.start_eq

theorem Regs.AtRest.sample {c : Config} {r : Regs} (h : r.AtRest c) (b : Bool) :
    (r.sample b).AtRest c := ⟨h.clock_lt, h.sub_lt, h.snap_lt, h.start_eq⟩

/-- A cycle keeps the invariants, as each of its operations does (R53). -/
theorem Regs.AtRest.nextRegs {c : Config} (hc : c.Legal) {r : Regs} (h : r.AtRest c) (v : InVec) :
    (Machine.nextRegs c v r).AtRest c := by
  unfold Machine.nextRegs
  split
  · exact Regs.reset_atRest hc
  split
  · exact ((h.hostEffect _).tick hc).sample _
  · exact (h.hostEffect _).sample _

/-- Settles O19: a step is one cycle, and a cycle keeps the invariants. -/
theorem everyStepKeepsTheInvariantsAtRest : Obligations.EveryStepKeepsTheInvariantsAtRest := by
  intro s t hs h
  obtain ⟨hl, rfl⟩ := step_inv h
  exact ⟨hl, hs.atRest.nextRegs hl _⟩

/-! ## Reachable states (R17) -/

theorem Reachable.atRest {c : Config} (hc : c.Legal) {t : State} (h : Reachable c t) :
    t.regs.AtRest c := by
  obtain ⟨vs, hr⟩ := h
  rw [(runInputs_inv hc hr).1]
  exact foldRegs_induct (fun _ v _ hq => hq.nextRegs hc v) (Regs.reset_atRest hc)

/-- R17 (v): the three wide registers stay within the arguments of `Decode`. -/
theorem Regs.AtRest.lt_day {c : Config} (hc : c.Legal) {r : Regs} (h : r.AtRest c) :
    r.clock.toNat < 86400000 ∧ r.start.toNat < 86400000 ∧ r.snap.toNat < 86400000 := by
  obtain ⟨hclock, -, hsnap, hstart⟩ := h
  obtain ⟨-, -, -, -, hwrap, -, -, -, hinit, -⟩ := hc
  omega

theorem decodeTime_hours_le {t : Nat} (h : t < 86400000) : (decodeTime t).hours ≤ 23 := by
  have e : (decodeTime t).hours = t / 1000 / 3600 := rfl
  omega

/-- A wrapping tick clears `START`, whatever the host slot does in its cycle (R75). -/
theorem nextRegs_start_of_wrap {c : Config} {v : InVec} {r : Regs} (hv : vecRst v = false)
    (ht : vecTick v = true) (hw : r.tickWraps c = true) : (nextRegs c v r).start = 0#32 := by
  rw [nextRegs_start c hv, if_pos ht, Regs.tick_start, if_pos hw]

/-- Without reset nothing loads a cleared `START` again (R17 (iv)). -/
theorem nextRegs_start_stays_zero {c : Config} {v : InVec} {r : Regs} (hv : vecRst v = false)
    (h : r.start = 0#32) : (nextRegs c v r).start = 0#32 := by
  rw [nextRegs_start c hv, Regs.tick_start, h, ite_self, ite_self]

/-- Settles O20: reachable registers are at rest, and the cleared `START` is kept by every cycle of
the run after the wrap. -/
theorem invariantsAtRestHoldInEveryReachableState :
    Obligations.InvariantsAtRestHoldInEveryReachableState := by
  intro c hc
  refine ⟨fun t ht => ?_, fun before after v s t hs hv htick hwrap hafter hrun => ?_⟩
  · have hr := ht.atRest hc
    obtain ⟨hclock, hstart, hsnap⟩ := hr.lt_day hc
    exact ⟨hr.clock_lt, hr.sub_lt, hr.snap_lt, hr.start_eq, hclock, hstart, hsnap,
      decodeTime_hours_le hclock, decodeTime_hours_le hstart, decodeTime_hours_le hsnap⟩
  · obtain rfl : s.cfg = c := (runInputs_inv hc hs).2.1
    rw [(runInputs_inv hc hrun).1, foldRegs_cons]
    exact foldRegs_induct (P := fun q => q.start = 0#32)
      (fun _ w hw hq => nextRegs_start_stays_zero (hafter w hw) hq)
      (nextRegs_start_of_wrap hv htick hwrap)

/-! ## What a step depends on (R18) -/

/-- Settles O14: a step's registers, outputs and parameters are functions of the registers, the
parameters and the vector. -/
theorem onlyRegistersParametersAndInputDetermineTheStep :
    Obligations.OnlyRegistersParametersAndInputDetermineTheStep := by
  intro s t s' hregs hcfg hin hstep
  obtain ⟨hl, rfl⟩ := step_inv hstep
  refine ⟨_, step_eq (hcfg ▸ hl), ?_, ?_, hcfg.symm⟩
  · simp [hregs, hcfg, hin]
  · simp [hregs, hin]

/-! ## The writers of each register (R10) -/

/-- Settles O26, slot by slot: a reset may write every register but leaves `WAKE` clear, and the field
lemmas of the tick, the sample and the host effect say what each leaves alone. Of the host operations
only `CLRW` touches `WAKE`, hence the case split there. -/
theorem eachRegisterChangesOnlyByItsWriters : Obligations.EachRegisterChangesOnlyByItsWriters := by
  intro i s t h
  obtain ⟨rfl, hr⟩ | ⟨rfl, hr⟩ | ⟨hi, b, hr⟩ | ⟨-, hr⟩ := exec_regs_cases h
  · simp [hr]
  · simp +contextual [hr]
  · rcases hi with rfl | rfl <;> simp +contextual [hr]
  · by_cases hi : i = .clrw <;> simp +contextual [hr, hi]

/-! ## When `WAKE` rises (R15, R94) -/

/-- Settles O31: a reset leaves `WAKE` clear, and in any other cycle the host operation at most clears
it, so a set flag comes from the edge of the pin sample. -/
theorem wakeRisesOnlyByAnEdge : Obligations.WakeRisesOnlyByAnEdge := by
  intro s t h hclear hset
  obtain ⟨-, rfl⟩ := step_inv h
  rw [State.after_regs, State.takeInput_regs] at hset
  cases hv : vecRst s.nextInput with
  | true => simp [nextRegs_of_reset _ hv] at hset
  | false =>
    rw [nextRegs_wake _ hv, hclear, ite_self, Bool.false_or, bne_iff_ne] at hset
    exact ⟨rfl, hset⟩

end Sys2Proof.Machine
end

section
/-! Family 20_memory: the register space read and written through the host port (R31, R33 to R35, R38),
and the outputs of a cycle (R33, R134). -/

namespace Sys2Proof.Machine

/-! ## What a byte of the register space depends on (R31) -/

/-- The sixteen addresses by the register that stands there: `WAKE`, `SUB`, none, `START`, `SNAP`. -/
theorem addr_cases (a : Addr) :
    a = 0x0#4 ∨ a = 0x2#4 ∨ a ∈ [0x1#4, 0x3#4, 0xF#4] ∨ (0x8#4 ≤ a ∧ a ≤ 0xB#4) ∨
      (0x4#4 ≤ a ∧ a ≤ 0x7#4 ∨ 0xC#4 ≤ a ∧ a ≤ 0xE#4) := by
  decide +revert

/-- The bytes read at `START0..3` depend on the start marker only. -/
theorem memRead_congr_start {r q : Regs} (h : r.start = q.start) {a : Addr}
    (ha : 0x8#4 ≤ a ∧ a ≤ 0xB#4) : memRead r a = memRead q a := by
  obtain rfl | rfl | rfl | rfl : a = 0x8#4 ∨ a = 0x9#4 ∨ a = 0xA#4 ∨ a = 0xB#4 := by bv_omega
  all_goals simp [memRead, h]

/-- The register map, read as a frame: a byte depends only on the register that stands at its
address. -/
theorem memRead_congr {r q : Regs} {a : Addr}
    (hwake : a = 0x0#4 → r.wake = q.wake) (hsub : a = 0x2#4 → r.sub = q.sub)
    (hsnap : 0x4#4 ≤ a ∧ a ≤ 0x7#4 ∨ 0xC#4 ≤ a ∧ a ≤ 0xE#4 → r.snap = q.snap)
    (hstart : 0x8#4 ≤ a ∧ a ≤ 0xB#4 → r.start = q.start) : memRead r a = memRead q a := by
  obtain rfl | rfl | ha | ha | ha := addr_cases a
  · simp [memRead, hwake rfl]
  · simp [memRead, hsub rfl]
  · fin_cases ha <;> rfl
  · exact memRead_congr_start (hstart ha) ha
  · refine memRead_congr_snap (hsnap ha) ?_
    simp only [List.mem_cons, List.not_mem_nil, or_false]
    bv_omega

theorem memRead_clearWake {a : Addr} (ha : a ≠ 0x0#4) (r : Regs) :
    memRead r.clearWake a = memRead r a :=
  memRead_congr (fun h => absurd h ha) (fun _ => rfl) (fun _ => rfl) (fun _ => rfl)

theorem memRead_sample {a : Addr} (ha : a ≠ 0x0#4) (b : Bool) (r : Regs) :
    memRead (r.sample b) a = memRead r a :=
  memRead_congr (fun h => absurd h ha) (fun _ => rfl) (fun _ => rfl) (fun _ => rfl)

theorem memRead_takeSnapshot {a : Addr}
    (ha : ¬ (0x4#4 ≤ a ∧ a ≤ 0x7#4 ∨ 0xC#4 ≤ a ∧ a ≤ 0xE#4)) (r : Regs) :
    memRead r.takeSnapshot a = memRead r a :=
  memRead_congr (fun _ => rfl) (fun _ => rfl) (fun h => absurd h ha) (fun _ => rfl)

theorem memRead_tick {a : Addr} (ha : ¬ (a = 0x2#4 ∨ 0x8#4 ≤ a ∧ a ≤ 0xB#4)) (c : Config)
    (r : Regs) : memRead (r.tick c) a = memRead r a :=
  memRead_congr (fun _ => Regs.tick_wake c r) (fun h => absurd (.inl h) ha)
    (fun _ => Regs.tick_snap c r) (fun h => absurd (.inr h) ha)

/-! ## The frame of each operation (R31, R53, R81) -/

/-- Outside the bytes of the register that an operation writes, every byte reads as before: the frame
of `exec` over the register space, slot by slot. -/
theorem memRead_exec {i : Instr} {s t : State} (a : Addr) (hi : i ≠ .reset)
    (h : exec i s = .next t) :
    (a = 0x0#4 ∧ (i = .clrw ∨ i = .sample0 ∨ i = .sample1)) ∨
      ((a = 0x2#4 ∨ 0x8#4 ≤ a ∧ a ≤ 0xB#4) ∧ i = .tick) ∨
      ((0x4#4 ≤ a ∧ a ≤ 0x7#4 ∨ 0xC#4 ≤ a ∧ a ≤ 0xE#4) ∧ i = .snap) ∨
      memRead t.regs a = memRead s.regs a := by
  obtain ⟨rfl, -⟩ | ⟨rfl, hr⟩ | ⟨hpin, b, hr⟩ | ⟨-, hr⟩ := exec_regs_cases h
  · exact absurd rfl hi
  · rw [hr]
    by_cases ha : a = 0x2#4 ∨ 0x8#4 ≤ a ∧ a ≤ 0xB#4
    · exact .inr (.inl ⟨ha, rfl⟩)
    · exact .inr (.inr (.inr (memRead_tick ha _ _)))
  · rw [hr]
    by_cases ha : a = 0x0#4
    · exact .inl ⟨ha, .inr hpin⟩
    · exact .inr (.inr (.inr (memRead_sample ha b _)))
  · rw [hr]
    by_cases hsnap : i = .snap
    · subst hsnap
      by_cases ha : 0x4#4 ≤ a ∧ a ≤ 0x7#4 ∨ 0xC#4 ≤ a ∧ a ≤ 0xE#4
      · exact .inr (.inr (.inl ⟨ha, rfl⟩))
      · exact .inr (.inr (.inr (memRead_takeSnapshot ha _)))
    by_cases hclrw : i = .clrw
    · subst hclrw
      by_cases ha : a = 0x0#4
      · exact .inl ⟨ha, .inl rfl⟩
      · exact .inr (.inr (.inr (memRead_clearWake ha _)))
    rw [hostEffect_eq_self hsnap hclrw]
    exact .inr (.inr (.inr rfl))

/-- A host operation writes no register but `SNAP` (by `SNAP`) and `WAKE` (by `CLRW`). -/
theorem exec_host_frame {i : Instr} {s t : State} (hi : i.slot = .host) (h : exec i s = .next t) :
    t.regs.clock = s.regs.clock ∧ t.regs.sub = s.regs.sub ∧ t.regs.start = s.regs.start ∧
      t.regs.sy1 = s.regs.sy1 ∧ t.regs.sy2 = s.regs.sy2 ∧ t.regs.prev = s.regs.prev ∧
      (i ≠ .snap → t.regs.snap = s.regs.snap) ∧ (i ≠ .clrw → t.regs.wake = s.regs.wake) := by
  rw [exec_host hi] at h
  obtain rfl := Host.Outcome.next.inj h
  simp +contextual

/-- A pin operation is one of the two samples (R91, R92). -/
theorem Instr.eq_pinInstr_of_slot {i : Instr} (hi : i.slot = .pin) : ∃ b, i = pinInstr b := by
  cases i with
  | sample0 => exact ⟨false, rfl⟩
  | sample1 => exact ⟨true, rfl⟩
  | _ => cases hi

theorem exec_pin_frame {i : Instr} {s t : State} (hi : i.slot = .pin) (h : exec i s = .next t) :
    t.regs.clock = s.regs.clock ∧ t.regs.sub = s.regs.sub ∧ t.regs.start = s.regs.start ∧
      t.regs.snap = s.regs.snap ∧ t.out = s.out := by
  obtain ⟨b, rfl⟩ := Instr.eq_pinInstr_of_slot hi
  rw [exec_pinInstr] at h
  obtain rfl := Host.Outcome.next.inj h
  exact ⟨rfl, rfl, rfl, rfl, rfl⟩

theorem Instr.eq_tick_of_slot {i : Instr} (hi : i.slot = .tick) : i = .tick := by
  cases i with
  | tick => rfl
  | _ => cases hi

theorem exec_tick_frame {i : Instr} {s t : State} (hi : i.slot = .tick) (h : exec i s = .next t) :
    t.regs.wake = s.regs.wake ∧ t.regs.snap = s.regs.snap ∧ t.regs.sy1 = s.regs.sy1 ∧
      t.regs.sy2 = s.regs.sy2 ∧ t.regs.prev = s.regs.prev ∧ t.out = s.out := by
  obtain rfl := Instr.eq_tick_of_slot hi
  rw [exec_tick] at h
  obtain rfl := Host.Outcome.next.inj h
  simp

/-- Settles O46 from the frame over the register space and the frame of each slot's operations. -/
theorem frameOfTheRegisterSpace : Obligations.FrameOfTheRegisterSpace := by
  intro i s t a hi h
  exact ⟨memRead_exec a hi h, fun hs => exec_host_frame hs h, fun hs => exec_pin_frame hs h,
    fun hs => exec_tick_frame hs h⟩

/-! ## The outputs of a cycle (R33, R134) -/

/-- Settles O42: what a step records is the output function of the registers at its start. -/
theorem outputsComeFromTheStateAtTheStartOfTheCycle :
    Obligations.OutputsComeFromTheStateAtTheStartOfTheCycle := by
  intro s t v h
  have hout : t.out = s.regs.outputs v := step_out h
  rw [hout]
  refine ⟨rfl, fun ⟨hrst, hsel, hwe⟩ => ?_, fun hno => ?_⟩
  · simp [Regs.outputs, hrst, hsel, hwe]
  · exact if_neg fun hread => hno (by simpa [and_assoc] using hread)

/-! ## Host writes (R34, R38, R58) -/

/-- A write that is neither `SNAP` nor `CLRW` stores nothing anywhere. -/
theorem memWrite_eq_self {a : Addr} {x : Byte} (h : ¬ (a = 0x1#4 ∧ (x = 0x01#8 ∨ x = 0x02#8)))
    (r : Regs) : memWrite r a x = r := by
  by_cases hnop : a = 0x1#4 ∧ x = 0x00#8
  · obtain ⟨rfl, rfl⟩ := hnop
    exact memWrite_nop r
  · have hwf : (Instr.wrIgn a x).wf = true := by grind [Instr.wf, isCommandWrite]
    exact memWrite_of_wf hwf r

/-- A host slot that writes neither `SNAP` nor `CLRW` leaves the registers alone. -/
theorem Regs.hostOp_eq_self {v : InVec}
    (h : ¬ (vecSel v = true ∧ vecWe v = true ∧ vecAddr v = 0x1#4 ∧
      (vecWdata v = 0x01#8 ∨ vecWdata v = 0x02#8))) (r : Regs) : r.hostOp v = r := by
  unfold Regs.hostOp
  split
  · rename_i hw
    obtain ⟨hsel, hwe⟩ := Bool.and_eq_true_iff.1 hw
    exact memWrite_eq_self (fun hc => h ⟨hsel, hwe, hc⟩) r
  · rfl

/-- Cycles without reset that agree in tick, pin and host effect leave the same registers (R53). -/
theorem Regs.next_congr {c : Config} {v w : InVec} {r : Regs} (hv : vecRst v = false)
    (hw : vecRst w = false) (htick : vecTick w = vecTick v) (hpin : vecPin w = vecPin v)
    (hhost : r.hostOp v = r.hostOp w) : r.next c v = r.next c w := by
  simp only [Regs.next, hv, hw, htick, hpin, hhost]

/-- Settles O43: neither host slot has an effect, so the two cycles are the same tick and sample. -/
theorem onlySnapAndClrwActFromTheHostSlot : Obligations.OnlySnapAndClrwActFromTheHostSlot := by
  intro s t u v w hv hw hidle htick hpin hno hstep hstep'
  obtain ⟨-, rfl⟩ := step_inv hstep
  obtain ⟨-, rfl⟩ := step_inv hstep'
  have hhost : s.regs.hostOp v = s.regs.hostOp w := by
    rw [Regs.hostOp_eq_self hno, Regs.hostOp_eq_self (by simp [hidle])]
  simp only [State.after_regs, State.nextInput_placeInput, State.takeInput_regs,
    State.takeInput_cfg, State.placeInput_regs, State.placeInput_cfg, ← Regs.next_eq]
  exact Regs.next_congr hv hw htick hpin hhost

/-! ## Wide registers, byte by byte (R35) -/

/-- Byte `k` of `SNAP` stands at `0x4 + k`. -/
theorem memRead_snap_byte (r : Regs) (k : Fin 4) :
    memRead r (BitVec.ofNat 4 (4 + k)) = byteOf r.snap k := by
  match k with
  | 0 | 1 | 2 | 3 => rfl

/-- Byte `k` of `START` stands at `0x8 + k`. -/
theorem memRead_start_byte (r : Regs) (k : Fin 4) :
    memRead r (BitVec.ofNat 4 (8 + k)) = byteOf r.start k := by
  match k with
  | 0 | 1 | 2 | 3 => rfl

/-- Settles O44: the addresses hold the bytes of one word, and those assemble to it. -/
theorem wideRegistersReadLittleEndian : Obligations.WideRegistersReadLittleEndian := fun r =>
  ⟨assemble32_bytes r.snap, assemble32_bytes r.start,
    fun k => ⟨memRead_snap_byte r k, memRead_start_byte r k⟩⟩

end Sys2Proof.Machine
end

section
/-! Family 30_encoding: the decoder against the encoder, the opcode map and the ignored bits (R51 to
R59), the step against the register-transfer form and the block's own step (R53), and traces (R61, R62). -/

namespace Sys2Proof

/-! ## The encoder after the decoder (R54, R59) -/

/-- A write is one of the three commands, or one that `WR.IGN` stands for (R57, R58). -/
theorem command_or_wf (a : Addr) (x : Byte) :
    (a = 0x1#4 ∧ (x = 0x00#8 ∨ x = 0x01#8 ∨ x = 0x02#8)) ∨ (Instr.wrIgn a x).wf = true := by
  cases h : isCommandWrite a x with
  | false => exact .inr (by simp [Instr.wf, h])
  | true => exact .inl (by simpa [isCommandWrite, or_assoc] using h)

theorem encode_decodeWrite (a : Addr) (x : Byte) :
    encode (decodeWrite a x) = vecOf false false false true true a x := by
  obtain ⟨rfl, rfl | rfl | rfl⟩ | hwf := command_or_wf a x
  · rfl
  · rfl
  · rfl
  · rw [decodeWrite_of_wf hwf]
    rfl

theorem encode_decodeRead (a : Addr) :
    encode (decodeRead a) = vecOf false false false true false a 0x00#8 := by
  decide +revert

/-- The host bits of the canonical vector: those that the selected operation does not ignore (R59). -/
theorem encode_decodeHost (v : InVec) :
    encode (decodeHost v) = vecOf false false false (vecSel v) (vecSel v && vecWe v)
      (if vecSel v then vecAddr v else 0x0#4)
      (if vecSel v && vecWe v then vecWdata v else 0x00#8) := by
  unfold decodeHost
  cases vecSel v
  · rfl
  cases vecWe v
  · exact encode_decodeRead _
  · exact encode_decodeWrite _ _

/-- The host bits of two vectors that select the same host operation agree but for ignored ones. -/
theorem decodeHost_eq_iff (v w : InVec) :
    decodeHost v = decodeHost w ↔
      vecSel v = vecSel w ∧ (vecSel v = true → vecWe v = vecWe w ∧ vecAddr v = vecAddr w ∧
        (vecWe v = true → vecWdata v = vecWdata w)) := by
  constructor
  · intro h
    have he := congrArg encode h
    rw [encode_decodeHost, encode_decodeHost, vec_eq_iff] at he
    simp only [vecSel_vecOf, vecWe_vecOf, vecAddr_vecOf, vecWdata_vecOf] at he
    obtain ⟨-, -, -, hsel, hwe, haddr, hwdata⟩ := he
    refine ⟨hsel, fun hs => ?_⟩
    simp only [hs, ← hsel, Bool.true_and, if_true] at hwe haddr hwdata
    refine ⟨hwe, haddr, fun hw => ?_⟩
    simpa [hw, ← hwe] using hwdata
  · rintro ⟨hsel, h⟩
    unfold decodeHost
    rw [← hsel]
    cases hs : vecSel v with
    | false => rfl
    | true =>
      obtain ⟨hwe, haddr, hwdata⟩ := h hs
      rw [← hwe, ← haddr]
      cases hw : vecWe v with
      | false => rfl
      | true => rw [hwdata hw]

theorem decode_of_rst {v : InVec} (h : vecRst v = true) : decode v = .reset := if_pos h

theorem decode_of_not_rst {v : InVec} (h : vecRst v = false) :
    decode v = .run (decodeHost v) (vecTick v) (vecPin v) := by simp [decode, h]

theorem decode_wf (v : InVec) : (decode v).wf = true := by
  cases h : vecRst v with
  | true => rw [decode_of_rst h]; rfl
  | false =>
    obtain ⟨hslot, hwf⟩ := decodeHost_wf v
    simp [decode_of_not_rst h, Cycle.wf, hslot, hwf]

/-- The three kinds of ignored bits, as an implication each (R59). -/
theorem sameButIgnored_iff (v w : InVec) :
    sameButIgnored v w = true ↔
      vecRst v = vecRst w ∧ (vecRst v = false → vecTick v = vecTick w ∧ vecPin v = vecPin w ∧
        vecSel v = vecSel w ∧ (vecSel v = true → vecWe v = vecWe w ∧ vecAddr v = vecAddr w ∧
          (vecWe v = true → vecWdata v = vecWdata w))) := by
  simp only [sameButIgnored, Bool.and_eq_true, Bool.or_eq_true, beq_iff_eq, Bool.not_eq_true',
    ← Bool.not_eq_true, and_assoc, or_iff_not_imp_left]
  simp

/-- Vectors decode alike exactly when they differ in ignored bits only (R59). -/
theorem decode_eq_iff (v w : InVec) : decode v = decode w ↔ sameButIgnored v w = true := by
  rw [sameButIgnored_iff]
  cases hv : vecRst v <;> cases hw : vecRst w
  · simp [decode_of_not_rst hv, decode_of_not_rst hw, decodeHost_eq_iff, and_comm, and_left_comm,
      and_assoc]
  · simp [decode_of_not_rst hv, decode_of_rst hw]
  · simp [decode_of_rst hv, decode_of_not_rst hw]
  · simp [decode_of_rst hv, decode_of_rst hw]

/-- The canonical vector of what `v` selects has every bit of `v` that is not ignored. -/
theorem sameButIgnored_encodeCycle_decode (v : InVec) :
    sameButIgnored v (encodeCycle (decode v)) = true := by
  rw [sameButIgnored_iff]
  cases h : vecRst v with
  | true => simp [decode_of_rst h, encodeCycle, encode]
  | false =>
    rw [decode_of_not_rst h, encodeCycle_of_fields (encode_decodeHost v)]
    simp +contextual

/-! ## Which vectors a row of the opcode map selects (R56) -/

section Rows

variable (name : String) (sl : Slot) (v : InVec)

@[simp] theorem selects_reset :
    (⟨name, sl, 0x10000#17, 0x10000#17⟩ : OpcodeRow).selects v = vecRst v := by
  have hm : 0x10000#17 = vecOf true false false false false 0x0#4 0x00#8 := by decide
  rw [Bool.eq_iff_iff, OpcodeRow.selects_iff]
  simp [hm]

@[simp] theorem selects_tick :
    (⟨name, sl, 0x18000#17, 0x08000#17⟩ : OpcodeRow).selects v = (!vecRst v && vecTick v) := by
  have hm : 0x18000#17 = vecOf true true false false false 0x0#4 0x00#8 := by decide
  have hp : 0x08000#17 = vecOf false true false false false 0x0#4 0x00#8 := by decide
  rw [Bool.eq_iff_iff, OpcodeRow.selects_iff]
  simp [hm, hp]

@[simp] theorem selects_sample (b : Bool) :
    (⟨name, sl, 0x14000#17, vecOf false false b false false 0x0#4 0x00#8⟩ : OpcodeRow).selects v
      = (!vecRst v && vecPin v == b) := by
  have hm : 0x14000#17 = vecOf true false true false false 0x0#4 0x00#8 := by decide
  rw [Bool.eq_iff_iff, OpcodeRow.selects_iff]
  simp [hm]

@[simp] theorem selects_idle :
    (⟨name, sl, 0x12000#17, 0x00000#17⟩ : OpcodeRow).selects v = (!vecRst v && !vecSel v) := by
  have hm : 0x12000#17 = vecOf true false false true false 0x0#4 0x00#8 := by decide
  have hp : 0x00000#17 = vecOf false false false false false 0x0#4 0x00#8 := by decide
  rw [Bool.eq_iff_iff, OpcodeRow.selects_iff]
  simp [hm, hp]

@[simp] theorem selects_command (op : Byte) :
    (⟨name, sl, 0x13FFF#17, vecOf false false false true true 0x1#4 op⟩ : OpcodeRow).selects v
      = (!vecRst v && vecSel v && vecWe v && vecAddr v == 0x1#4 && vecWdata v == op) := by
  have hm : 0x13FFF#17 = vecOf true false false true true (BitVec.allOnes 4) (BitVec.allOnes 8) := by
    decide
  rw [Bool.eq_iff_iff, OpcodeRow.selects_iff]
  simp [hm, and_assoc, -BitVec.reduceAllOnes]

@[simp] theorem selects_read (a : Addr) :
    (⟨name, sl, 0x13F00#17, vecOf false false false true false a 0x00#8⟩ : OpcodeRow).selects v
      = (!vecRst v && vecSel v && !vecWe v && vecAddr v == a) := by
  have hm : 0x13F00#17 = vecOf true false false true true (BitVec.allOnes 4) 0x00#8 := by decide
  rw [Bool.eq_iff_iff, OpcodeRow.selects_iff]
  simp [hm, and_assoc, -BitVec.reduceAllOnes]

@[simp] theorem selects_wrIgn :
    (⟨name, sl, 0x13000#17, 0x03000#17⟩ : OpcodeRow).selects v = (!vecRst v && vecSel v && vecWe v) := by
  have hm : 0x13000#17 = vecOf true false false true true 0x0#4 0x00#8 := by decide
  have hp : 0x03000#17 = vecOf false false false true true 0x0#4 0x00#8 := by decide
  rw [Bool.eq_iff_iff, OpcodeRow.selects_iff]
  simp [hm, hp, and_assoc]

end Rows

/-! ## The rows of a slot -/

/-- The rows of the map that belong to a slot. -/
def slotRows (sl : Slot) : List OpcodeRow := opcodeMap.filter fun row => row.slot == sl

theorem slotRows_reset : slotRows .reset = [⟨"RESET", .reset, 0x10000#17, 0x10000#17⟩] := by decide

theorem slotRows_tick : slotRows .tick = [⟨"TICK", .tick, 0x18000#17, 0x08000#17⟩] := by decide

theorem slotRows_pin : slotRows .pin =
    [⟨"SAMPLE0", .pin, 0x14000#17, vecOf false false false false false 0x0#4 0x00#8⟩,
     ⟨"SAMPLE1", .pin, 0x14000#17, vecOf false false true false false 0x0#4 0x00#8⟩] := by decide

theorem slotRows_host : slotRows .host =
    commandRows ++ readRows ++ [⟨"WR.IGN", .host, 0x13000#17, 0x03000#17⟩] := by decide

theorem commandRows_eq : commandRows =
    ⟨"IDLE", .host, 0x12000#17, 0x00000#17⟩ ::
      [("NOP", 0x00#8), ("SNAP", 0x01#8), ("CLRW", 0x02#8)].map fun cmd =>
        ⟨cmd.1, .host, 0x13FFF#17, vecOf false false false true true 0x1#4 cmd.2⟩ := by decide

/-- The sixteen addresses in their order. -/
def addrs : List Addr := (List.finRange 16).map BitVec.ofFin

theorem addrs_filter_beq (a : Addr) : addrs.filter (a == ·) = [a] := by decide +revert

/-- One read row an address, named after the read that the decoder gives there (R31). -/
theorem readRows_eq : readRows = addrs.map fun a =>
    ⟨(decodeRead a).mnemonic, .host, 0x13F00#17, vecOf false false false true false a 0x00#8⟩ := by
  decide

/-! ## The rows that match -/

theorem matchingRows_eq (sl : Slot) (v : InVec) :
    matchingRows sl v = (slotRows sl).filter fun row => row.selects v := by
  simp [matchingRows, slotRows, List.filter_filter, Bool.and_comm]

theorem lookupRow_eq (sl : Slot) (v : InVec) : lookupRow sl v = (matchingRows sl v).head? :=
  List.head?_filter.symm

theorem commandRows_matching (v : InVec) :
    (commandRows.filter fun row => row.selects v).map OpcodeRow.mnemonic =
      if vecRst v then []
      else if vecSel v then
        if vecWe v && isCommandWrite (vecAddr v) (vecWdata v) then
          [(decodeWrite (vecAddr v) (vecWdata v)).mnemonic]
        else []
      else ["IDLE"] := by
  cases hr : vecRst v with
  | true => simp [commandRows_eq, hr]
  | false =>
    cases hs : vecSel v with
    | false => simp [commandRows_eq, hr, hs]
    | true =>
      cases hw : vecWe v with
      | false => simp [commandRows_eq, hr, hs, hw]
      | true =>
        obtain ⟨ha, hcommand⟩ | hwf := command_or_wf (vecAddr v) (vecWdata v)
        · rcases hcommand with hd | hd | hd <;>
            simp [commandRows_eq, hr, hs, hw, ha, hd, isCommandWrite, decodeWrite, Instr.mnemonic]
        · have hno : isCommandWrite (vecAddr v) (vecWdata v) = false := by simpa [Instr.wf] using hwf
          have hop : vecAddr v = 0x1#4 →
              vecWdata v ≠ 0x00#8 ∧ vecWdata v ≠ 0x01#8 ∧ vecWdata v ≠ 0x02#8 := by
            simpa [isCommandWrite, and_assoc] using hno
          simp +contextual [commandRows_eq, hr, hs, hw, hno, hop]

theorem readRows_matching (v : InVec) :
    (readRows.filter fun row => row.selects v).map OpcodeRow.mnemonic =
      if !vecRst v && vecSel v && !vecWe v then [(decodeRead (vecAddr v)).mnemonic] else [] := by
  cases h : !vecRst v && vecSel v && !vecWe v with
  | false => simp [readRows_eq, List.filter_map, Function.comp_def, h]
  | true => simp [readRows_eq, List.filter_map, Function.comp_def, h, addrs_filter_beq]

/-- The names of the rows that match a vector whose slot carries the operation `i`. -/
def rowNames : Instr → List String
  | .nop => ["NOP", "WR.IGN"]
  | .snap => ["SNAP", "WR.IGN"]
  | .clrw => ["CLRW", "WR.IGN"]
  | i => [i.mnemonic]

theorem rowNames_head? (i : Instr) : (rowNames i).head? = some i.mnemonic := by
  cases i <;> rfl

theorem rowNames_cases (i : Instr) :
    (rowNames i).length ≤ 1 ∨ rowNames i = ["NOP", "WR.IGN"] ∨
      rowNames i = ["SNAP", "WR.IGN"] ∨ rowNames i = ["CLRW", "WR.IGN"] := by
  cases i with
  | nop => exact .inr (.inl rfl)
  | snap => exact .inr (.inr (.inl rfl))
  | clrw => exact .inr (.inr (.inr rfl))
  | _ => exact .inl le_rfl

theorem rowNames_decodeRead (a : Addr) : rowNames (decodeRead a) = [(decodeRead a).mnemonic] := by
  decide +revert

theorem rowNames_decodeWrite (a : Addr) (x : Byte) : rowNames (decodeWrite a x) =
    (if isCommandWrite a x then [(decodeWrite a x).mnemonic] else []) ++ ["WR.IGN"] := by
  obtain ⟨rfl, rfl | rfl | rfl⟩ | hwf := command_or_wf a x
  · rfl
  · rfl
  · rfl
  · have hcmd : isCommandWrite a x = false := by simpa [Instr.wf] using hwf
    rw [decodeWrite_of_wf hwf, hcmd]
    rfl

/-- In every slot the rows that match are those of the operation decoded there (R56). -/
theorem matchingRows_names (sl : Slot) (v : InVec) :
    (matchingRows sl v).map OpcodeRow.mnemonic = ((decodeSlot sl v).map rowNames).getD [] := by
  rw [matchingRows_eq]
  cases hr : vecRst v with
  | true =>
    cases sl with
    | reset => simp [slotRows_reset, decodeSlot, hr, rowNames, Instr.mnemonic]
    | tick => simp [slotRows_tick, decodeSlot, hr]
    | pin => simp [slotRows_pin, decodeSlot, hr]
    | host => simp [slotRows_host, commandRows_matching, readRows_matching, decodeSlot, hr]
  | false =>
    cases sl with
    | reset => simp [slotRows_reset, decodeSlot, hr]
    | tick =>
      cases ht : vecTick v <;> simp [slotRows_tick, decodeSlot, hr, ht, rowNames, Instr.mnemonic]
    | pin =>
      cases hp : vecPin v <;>
        simp [slotRows_pin, decodeSlot, hr, hp, pinInstr, rowNames, Instr.mnemonic]
    | host =>
      simp only [slotRows_host, List.filter_append, List.map_append, commandRows_matching,
        readRows_matching, decodeSlot, decodeHost, hr]
      cases hs : vecSel v with
      | false => simp [hr, hs, rowNames, Instr.mnemonic]
      | true =>
        cases hw : vecWe v with
        | false => simp [hr, hs, hw, rowNames_decodeRead]
        | true => simp [hr, hs, hw, rowNames_decodeWrite]

end Sys2Proof

namespace Sys2Proof.Machine

/-! ## The statements about encoding and decoding -/

/-- Settles O4: the canonical vector keeps every bit that is not ignored, and ignored bits do not change
what a vector decodes to. -/
theorem encodeOfDecodeDiffersOnlyInIgnoredBits :
    Obligations.EncodeOfDecodeDiffersOnlyInIgnoredBits := fun v =>
  have hsame := sameButIgnored_encodeCycle_decode v
  ⟨decode_wf v, hsame, ((decode_eq_iff _ _).2 hsame).symm⟩

theorem runCycle_congr {v w : InVec} (h : decode v = decode w) (s : State) :
    runCycle v s = runCycle w s := by
  rw [runCycle, runCycle, h]

/-- A vector that decodes alike may take the place of the one that is to come. -/
theorem step_placeInput_congr {v w : InVec} (h : decode v = decode w) (s : State) :
    step (s.placeInput v) = step (s.placeInput w) :=
  if_congr Iff.rfl (runCycle_congr h { s with inputs := s.inputs.tail }) rfl

/-- Settles O7: a step looks at the vector through the decoder only. -/
theorem vectorsThatDifferInIgnoredBitsHaveTheSameEffect :
    Obligations.VectorsThatDifferInIgnoredBitsHaveTheSameEffect := fun v w =>
  ⟨decode_eq_iff v w, fun h s => step_placeInput_congr ((decode_eq_iff v w).2 h) s⟩

/-- Settles O5: the first of the matching rows bears the name of the decoded operation. -/
theorem firstMatchingRowNamesTheDecodedOperation :
    Obligations.FirstMatchingRowNamesTheDecodedOperation := by
  intro sl v
  rw [lookupRow_eq, ← List.head?_map, matchingRows_names]
  cases decodeSlot sl v with
  | none => rfl
  | some i => exact rowNames_head? i

/-- Settles O6: the matching rows are those of the decoded operation, if there is one. -/
theorem opcodeRowsOverlapOnlyInTheCatchAll : Obligations.OpcodeRowsOverlapOnlyInTheCatchAll := by
  intro sl v
  rw [matchingRows_names]
  cases decodeSlot sl v with
  | none => exact .inl (Nat.zero_le 1)
  | some i => exact rowNames_cases i

/-- Settles O8: under reset every slot but its own is empty; else the host slot holds the decoded host
operation and the pin slot the sample of the captured level. -/
theorem everyCycleSelectsOneHostAndOnePinOperation :
    Obligations.EveryCycleSelectsOneHostAndOnePinOperation := by
  refine fun v => ⟨fun hr => ?_, fun hr => ?_⟩
  · simp [decode_of_rst hr, decodeSlot, hr, Cycle.ops]
  · obtain ⟨hslot, hwf⟩ := decodeHost_wf v
    refine ⟨by simp [decodeSlot, hr], decodeHost v, pinInstr (vecPin v), hslot, hwf, ?_,
      by simp [decodeSlot, hr], by simp [decodeSlot, hr], fun ht => ?_, fun ht => ?_⟩
    · cases vecPin v <;> simp [pinInstr]
    · simp [decodeSlot, decode_of_not_rst hr, hr, ht, Cycle.ops]
    · simp [decodeSlot, decode_of_not_rst hr, hr, ht, Cycle.ops]

/-! ## The step (R53) -/

/-- Settles O9: the vector of a step is the one listed first, or the free one, and a cycle runs what its
vector decodes to. -/
theorem stepRunsTheDecodedOperations : Obligations.StepRunsTheDecodedOperations := by
  intro s hl
  rw [step, if_pos hl]
  refine ⟨fun v rest hin => ?_, fun hin => ?_⟩
  · rw [State.nextInput_of_cons hin, State.takeInput_of_cons hin, runCycle]
  · have hnext : s.nextInput = Config.freeInput s.drawn := by simp [State.nextInput, hin]
    have htake : s.takeInput = { s with drawn := s.drawn + 1 } := by simp [State.takeInput, hin]
    rw [hnext, htake, runCycle]

/-- The wires of a command are those of the vectors that decode to it (R57). -/
theorem decodeHost_eq_command_iff (v : InVec) (op : Byte) :
    decodeHost v = decodeWrite 0x1#4 op ↔ wireCommand v op = true := by
  have hop : decodeHost (vecOf false false false true true 0x1#4 op) = decodeWrite 0x1#4 op := by
    simp [decodeHost]
  rw [← hop, decodeHost_eq_iff]
  simp only [vecSel_vecOf, vecWe_vecOf, vecAddr_vecOf, vecWdata_vecOf, wireCommand, Bool.and_eq_true,
    beq_iff_eq]
  tauto

/-- Registers are equal when their fields are. -/
theorem Regs.eq_of_fields {r q : Regs} (hclock : r.clock = q.clock) (hsub : r.sub = q.sub)
    (hstart : r.start = q.start) (hwake : r.wake = q.wake) (hsnap : r.snap = q.snap)
    (hsync : r.sy1 = q.sy1 ∧ r.sy2 = q.sy2 ∧ r.prev = q.prev) : r = q := by
  cases r
  cases q
  obtain ⟨hsy1, hsy2, hprev⟩ := hsync
  simp only [Regs.mk.injEq]
  exact ⟨hclock, hsub, hstart, hwake, hsnap, hsy1, hsy2, hprev⟩

/-- The operations of a cycle in turn leave the registers of the register-transfer form, field by field:
each field lemma of the cycle is an equation in the old registers and the wires (R53, R136). -/
theorem nextRegs_eq_rtlRegs (c : Config) (v : InVec) (r : Regs) :
    nextRegs c v r = rtlRegs c r v := by
  cases hr : vecRst v with
  | true => simp [nextRegs, rtlRegs, hr]
  | false =>
    have hsnap : decodeHost v = .snap ↔ wireCommand v 0x01#8 = true :=
      decodeHost_eq_command_iff v 0x01#8
    have hclrw : decodeHost v = .clrw ↔ wireCommand v 0x02#8 = true :=
      decodeHost_eq_command_iff v 0x02#8
    apply Regs.eq_of_fields
    · rw [nextRegs_clock c hr]
      cases ht : vecTick v <;> simp [rtlRegs, wireWrap, hr, ht]
    · rw [nextRegs_sub c hr]
      simp [rtlRegs, hr]
    · rw [nextRegs_start c hr]
      cases ht : vecTick v <;> simp [rtlRegs, wireWrap, hr, ht]
    · rw [nextRegs_wake c hr]
      cases hc : wireCommand v 0x02#8 <;> simp [rtlRegs, hr, hclrw, hc, Bool.or_comm]
    · rw [nextRegs_snap c hr]
      simp [rtlRegs, hr, hsnap]
    · simpa [rtlRegs, hr] using nextRegs_sync c hr r

/-- Settles O13: registers and outputs of the decoded cycle are those of the register-transfer form. -/
theorem stepIsTheRegisterTransferForm : Obligations.StepIsTheRegisterTransferForm := by
  intro s v rest hl hin
  rw [step_eq hl, State.nextInput_of_cons hin, State.takeInput_of_cons hin, State.after,
    nextRegs_eq_rtlRegs, ← Regs.outputs_eq]
  rfl

/-- A run does to the registers what the block does by itself, and records its last outputs (R18). -/
theorem runInputs_eq_blockRun {s : State} (hl : s.cfg.Legal) (vs : List InVec) :
    ∃ t, runInputs s vs = .next t ∧ t.regs = (blockRun s.cfg s.regs vs).1 ∧ t.cfg = s.cfg ∧
      t.out = (blockRun s.cfg s.regs vs).2.getLastD s.out := by
  induction vs generalizing s with
  | nil => exact ⟨_, runInputs_nil s, rfl, rfl, rfl⟩
  | cons v vs ih =>
    have hstep : blockStep s.cfg s.regs v = ((s.after v).regs, (s.after v).out) := by
      rw [blockStep, Regs.next_eq, Regs.outputs_eq, State.after_regs, State.after_out]
    obtain ⟨t, hrun, hregs, hcfg, hout⟩ := ih (s := s.after v) hl
    refine ⟨t, (runInputs_cons hl v vs).trans hrun, ?_, hcfg, ?_⟩
    · rw [hregs, blockRun, hstep]
      rfl
    · rw [hout, blockRun, hstep, List.getLastD_cons]
      rfl

/-- Settles O54: one step by the block's next state and outputs, a run by induction over its vectors. -/
theorem stepIsTheBlocksOwnStepFunction : Obligations.StepIsTheBlocksOwnStepFunction := by
  refine ⟨fun s v hl => ?_, fun s vs hl => runInputs_eq_blockRun hl vs⟩
  rw [step_placeInput hl, State.after, blockStep, Regs.next_eq, Regs.outputs_eq]

/-! ## Traces -/

/-- The operation that a host item names (R61): `WR` of a command opcode to `CMD` is the command. -/
def HostItem.instr : HostItem → Instr
  | .nop => .nop
  | .snap => .snap
  | .clrw => .clrw
  | .rd reg => decodeRead reg.addr
  | .wr addr value => decodeWrite addr value

/-- The operation in the host slot of a cycle line: `IDLE` without a host item. -/
def CycleLine.hostInstr (line : CycleLine) : Instr := line.host.elim .idle HostItem.instr

section CycleLines

variable (line : CycleLine) (level : Bool)

@[simp] theorem CycleLine.vecRst_vector : vecRst (line.vector level) = line.reset := by
  unfold CycleLine.vector
  split <;> exact vecRst_vecOf ..

@[simp] theorem CycleLine.vecTick_vector : vecTick (line.vector level) = line.tick := by
  unfold CycleLine.vector
  split <;> exact vecTick_vecOf ..

@[simp] theorem CycleLine.vecPin_vector : vecPin (line.vector level) = level := by
  unfold CycleLine.vector
  split <;> exact vecPin_vecOf ..

@[simp] theorem CycleLine.decodeHost_vector : decodeHost (line.vector level) = line.hostInstr := by
  cases hh : line.host with
  | none => simp [CycleLine.vector, CycleLine.hostInstr, hh, decodeHost]
  | some item =>
    cases item <;>
      simp [CycleLine.vector, CycleLine.hostInstr, hh, decodeHost, decodeWrite, HostItem.instr]

theorem CycleLine.decode_vector (hr : line.reset = false) :
    decode (line.vector level) = .run line.hostInstr line.tick level := by
  simp [decode_of_not_rst, hr]

/-- Without `RESET` the assembler writes ignored bits as 0 (R59). -/
theorem CycleLine.vector_eq_encodeCycle (hr : line.reset = false) :
    line.vector level = encodeCycle (.run line.hostInstr line.tick level) := by
  rw [← line.decodeHost_vector level, encodeCycle_of_fields (encode_decodeHost _), vec_eq_iff]
  unfold CycleLine.vector
  split <;> simp [hr]

end CycleLines

theorem decodeRead_mem (a : Addr) : decodeRead a ∈ [Instr.rdStatus, .rdCmd, .rdSub, .rdRsv3,
    .rdSnap0, .rdSnap1, .rdSnap2, .rdSnap3, .rdStart0, .rdStart1, .rdStart2, .rdStart3,
    .rdDecH, .rdDecM, .rdDecS, .rdRsvf] := by
  decide +revert

theorem assembleCycles_length (lines : List CycleLine) (level : Bool) :
    (assembleCycles lines level).length = lines.length := by
  induction lines generalizing level with
  | nil => rfl
  | cons line rest ih => simp [assembleCycles, ih]

theorem assembleCycles_append (lines more : List CycleLine) (level : Bool) :
    assembleCycles (lines ++ more) level = assembleCycles lines level
      ++ assembleCycles more ((lines.filterMap CycleLine.pin).getLastD level) := by
  induction lines generalizing level with
  | nil => rfl
  | cons line rest ih =>
    cases hp : line.pin with
    | none => simp [assembleCycles, hp, ih]
    | some b =>
      simp only [List.cons_append, assembleCycles, hp, Option.getD_some, ih,
        List.filterMap_cons_some hp, List.getLastD_cons]

/-- Settles O50: a line's vector decodes to, and is the canonical encoding of, the line's own operations,
and the assembler goes through the lines from left to right. -/
theorem cycleLinesAssembleToTheirOperations : Obligations.CycleLinesAssembleToTheirOperations := by
  refine ⟨fun line level => ⟨line.vecPin_vector level, fun hr => decode_of_rst (by simp [hr]),
      fun hr => ?_⟩, fun line rest level => ⟨rfl, rfl⟩,
    fun lines more level => ⟨assembleCycles_length lines level, assembleCycles_append lines more level⟩,
    fun c trace => rfl⟩
  have hinstr {item} (h : line.host = item) : line.hostInstr = item.elim .idle HostItem.instr :=
    congrArg (·.elim .idle HostItem.instr) h
  exact ⟨line.hostInstr, line.decode_vector level hr, line.vector_eq_encodeCycle level hr,
    hinstr, hinstr, hinstr, hinstr, hinstr, hinstr, hinstr,
    fun a v hw hwf => (hinstr hw).trans (decodeWrite_of_wf hwf),
    fun reg hrd => by
      rw [hinstr hrd]
      exact ⟨decodeRead_mem reg.addr, by simp [HostItem.instr, encode_decodeRead]⟩⟩

/-- Settles O49 by running the parser and the assembler on each text. -/
theorem traceExampleAndPseudoOperationsAssemble :
    Obligations.TraceExampleAndPseudoOperationsAssemble :=
  ⟨by decide, by decide, by decide, by decide, by decide⟩

end Sys2Proof.Machine
end

section
/-! Family 40_tick_accumulator: one tick in natural numbers (R70), `CLOCK` between wraps (R79), `START`
in lockstep with it (R75), and the drift correction over a run (R78). -/

namespace Sys2Proof

/-- The vectors whose tick slot carries `TICK` (R54). -/
theorem decodeSlot_tick_iff (v : InVec) :
    decodeSlot .tick v = some .tick ↔ vecRst v = false ∧ vecTick v = true := by
  cases hr : vecRst v <;> simp [decodeSlot, hr]

/-- A run with a tick, cut at its last one. -/
theorem exists_last_tick {vs : List InVec} {n : Nat} (h : (vs.filter vecTick).length = n + 1) :
    ∃ before after v, vs = before ++ v :: after ∧ vecTick v = true ∧
      (∀ w ∈ after, vecTick w = false) ∧ (before.filter vecTick).length = n := by
  obtain hnil | ⟨ticks, v, hticks⟩ := (vs.filter vecTick).eq_nil_or_concat'
  · simp [hnil] at h
  · obtain ⟨front, back, rfl, hfront, hback⟩ := List.filter_eq_append_iff.1 hticks
    obtain ⟨idle, after, rfl, hidle, hv, hafter⟩ := List.filter_eq_cons_iff.1 hback
    refine ⟨front ++ idle, after, v, by simp, hv, by simpa using hafter, ?_⟩
    have hlen : ticks.length = n := by simpa [hticks] using h
    rw [List.filter_append, List.filter_eq_nil_iff.2 hidle, List.append_nil, hfront, hlen]

end Sys2Proof

namespace Sys2Proof.Machine

/-! ## One tick -/

theorem Regs.tick_start_toNat (c : Config) (r : Regs) :
    (r.tick c).start.toNat = if c.wrapMs ≤ r.tickSum c then 0 else r.start.toNat := by
  simp only [Regs.tick_start, Regs.tickWraps_iff]
  split <;> rfl

/-- Settles O21: the sum and the count of the model are the pseudocode's `c2` and `k2`. -/
theorem tickAddsCorrectsAndWraps : Obligations.TickAddsCorrectsAndWraps := by
  refine ⟨fun v => ?_, ?_⟩
  · have hrow : (v &&& 0x18000#17 == 0x08000#17) = (!vecRst v && vecTick v) :=
      selects_tick "TICK" .tick v
    rw [decodeSlot_tick_iff, ← beq_iff_eq (b := 0x08000#17), hrow]
    simp
  · intro s hl c1 k1 c2 k2
    have hsum : s.regs.tickSum s.cfg = c2 := by
      rw [Regs.tickSum_eq]
      by_cases hk : s.cfg.corrPeriod ≤ k1 <;> simp [c2, c1, k1, hk]
    have hcount : s.regs.tickCount s.cfg = k2 := Regs.tickCount_eq s.cfg s.regs
    refine ⟨_, exec_tick s, ?_, ?_, ?_, ?_⟩
    · rw [State.setRegs_regs, Regs.tick_clock_toNat hl, hsum]
    · rw [State.setRegs_regs, Regs.tick_start_toNat, hsum]
    · rw [State.setRegs_regs, Regs.tick_sub_toNat hl, hcount]
    · simp

/-- Settles O23: the sum exceeds `CLOCK` by the increment, with or without the correction. -/
theorem clockIncreasesBetweenWraps : Obligations.ClockIncreasesBetweenWraps := by
  intro s hl hlt
  have hinc : 1 ≤ s.cfg.incMs := hl.1
  have hsum := Regs.tickSum_eq s.cfg s.regs
  refine ⟨_, exec_tick s, fun hw => ?_, fun hw => ?_⟩
  · have hbelow : ¬ s.cfg.wrapMs ≤ s.regs.tickSum s.cfg := by simp [← Regs.tickWraps_iff, hw]
    rw [State.setRegs_regs, Regs.tick_clock_toNat hl, if_neg hbelow]
    split at hsum <;> omega
  · have hreach := (Regs.tickWraps_iff s.cfg s.regs).1 hw
    refine ⟨by simp [hw], hreach, ?_⟩
    split at hsum <;> omega

/-- Settles O25: both registers follow the tick's own wrap in a cycle, whatever stands in its other
slots. -/
theorem startResetsInLockstepWithTheClock : Obligations.StartResetsInLockstepWithTheClock := by
  intro s t v hv h
  obtain ⟨-, rfl⟩ := step_inv h
  simp only [State.after_regs, State.takeInput_regs, State.takeInput_cfg, State.placeInput_regs,
    State.placeInput_cfg, State.nextInput_placeInput]
  refine ⟨fun ⟨ht, hw⟩ => ⟨?_, nextRegs_start_of_wrap hv ht hw⟩, fun hno => ?_⟩
  · rw [nextRegs_clock _ hv, if_pos ht, Regs.tick_clock, if_pos hw]
  · rw [nextRegs_start _ hv]
    cases ht : vecTick v with
    | false => rfl
    | true => rw [if_pos rfl, Regs.tick_start, if_neg fun hw => hno ⟨ht, hw⟩]

/-! ## The drift correction (R78) -/

/-- `CLOCK` after `n` ticks of which none wraps: the increments, and one correction for each time that
the count gets to `CORR_PERIOD`. -/
def Regs.driftSum (c : Config) (r : Regs) (n : Nat) : Nat :=
  r.clock.toNat + n * c.incMs + (r.sub.toNat + n) / c.corrPeriod * c.corrMs

theorem Regs.driftSum_mono (c : Config) (r : Regs) {m n : Nat} (h : m ≤ n) :
    r.driftSum c m ≤ r.driftSum c n := by
  unfold Regs.driftSum
  gcongr

section OneTick

variable {c : Config} {r : Regs} (h : r.sub.toNat < c.corrPeriod)
include h

/-- The count goes round modulo `CORR_PERIOD`. -/
theorem Regs.tickCount_eq_mod : r.tickCount c = (r.sub.toNat + 1) % c.corrPeriod := by
  rw [Regs.tickCount_eq]
  split
  case isTrue hdue => rw [show r.sub.toNat + 1 = c.corrPeriod by omega, Nat.mod_self]
  case isFalse hnot => rw [Nat.mod_eq_of_lt (by omega)]

theorem Regs.tickSum_eq_driftSum : r.tickSum c = r.driftSum c 1 := by
  rw [Regs.tickSum_eq, Regs.driftSum, Nat.one_mul]
  split
  case isTrue hdue =>
    rw [show r.sub.toNat + 1 = c.corrPeriod by omega, Nat.div_self (by omega), Nat.one_mul]
  case isFalse hnot => rw [Nat.div_eq_of_lt (by omega), Nat.zero_mul]

end OneTick

/-- The law goes on after a cycle with a tick as it did before it: the quotients of the count before and
after the tick add up. -/
theorem Regs.driftSum_of_tick {c : Config} {r q : Regs} (hclock : q.clock.toNat = r.driftSum c 1)
    (hsub : q.sub.toNat = (r.sub.toNat + 1) % c.corrPeriod) (hpos : 0 < c.corrPeriod) (n : Nat) :
    q.driftSum c n = r.driftSum c (n + 1) := by
  have hdiv : (r.sub.toNat + 1) / c.corrPeriod + ((r.sub.toNat + 1) % c.corrPeriod + n) / c.corrPeriod
      = (r.sub.toNat + (n + 1)) / c.corrPeriod := by
    rw [← Nat.mul_add_div hpos, ← Nat.add_assoc, Nat.div_add_mod, Nat.add_right_comm, Nat.add_assoc]
  rw [Regs.driftSum, Regs.driftSum, hclock, hsub, Regs.driftSum, ← hdiv]
  ring

/-- A cycle with a tick below the threshold is the law's step by one (R70). -/
theorem nextRegs_of_tick {c : Config} (hc : c.Legal) {v : InVec} {r : Regs} (hv : vecRst v = false)
    (ht : vecTick v = true) (hsub : r.sub.toNat < c.corrPeriod) (hsum : r.driftSum c 1 < c.wrapMs) :
    (nextRegs c v r).clock.toNat = r.driftSum c 1 ∧
      (nextRegs c v r).sub.toNat = (r.sub.toNat + 1) % c.corrPeriod ∧
      (nextRegs c v r).start = r.start := by
  rw [← Regs.tickSum_eq_driftSum hsub] at hsum ⊢
  have hfits : ¬ c.wrapMs ≤ r.tickSum c := Nat.not_le.2 hsum
  rw [nextRegs_clock c hv, nextRegs_sub c hv, nextRegs_start c hv, if_pos ht, if_pos ht, if_pos ht]
  refine ⟨?_, ?_, ?_⟩
  · rw [Regs.tick_clock_toNat hc, if_neg hfits]
  · rw [Regs.tick_sub_toNat hc, Regs.tickCount_eq_mod hsub]
  · rw [Regs.tick_start, if_neg fun hw => hfits ((Regs.tickWraps_iff c r).1 hw)]

/-- Without a tick a cycle leaves the accumulator's registers alone, whatever the host and the pin do. -/
theorem nextRegs_of_not_tick (c : Config) {v : InVec} (r : Regs) (hv : vecRst v = false)
    (ht : vecTick v = false) :
    (nextRegs c v r).clock = r.clock ∧ (nextRegs c v r).sub = r.sub ∧
      (nextRegs c v r).start = r.start := by
  simp [nextRegs_clock c hv, nextRegs_sub c hv, nextRegs_start c hv, ht]

/-- The law of R78 over the registers, cycle by cycle. -/
theorem foldRegs_drift {c : Config} (hc : c.Legal) {vs : List InVec} {r : Regs}
    (hrst : ∀ v ∈ vs, vecRst v = false) (hsub : r.sub.toNat < c.corrPeriod)
    (hsum : r.driftSum c (vs.filter vecTick).length < c.wrapMs) :
    (foldRegs c r vs).clock.toNat = r.driftSum c (vs.filter vecTick).length ∧
      (foldRegs c r vs).sub.toNat = (r.sub.toNat + (vs.filter vecTick).length) % c.corrPeriod ∧
      (foldRegs c r vs).start = r.start := by
  induction vs generalizing r with
  | nil => simp [Regs.driftSum, Nat.div_eq_of_lt hsub, Nat.mod_eq_of_lt hsub]
  | cons v vs ih =>
    obtain ⟨hv, hvs⟩ := List.forall_mem_cons.1 hrst
    rw [foldRegs_cons]
    cases ht : vecTick v with
    | false =>
      obtain ⟨hclock, hcount, hstart⟩ := nextRegs_of_not_tick c r hv ht
      have hlaw (n) : (nextRegs c v r).driftSum c n = r.driftSum c n := by
        rw [Regs.driftSum, hclock, hcount, Regs.driftSum]
      rw [List.filter_cons_of_neg (by simp [ht])] at hsum ⊢
      rw [← hlaw, ← hcount, ← hstart]
      exact ih hvs (hcount ▸ hsub) (hlaw _ ▸ hsum)
    | true =>
      rw [List.filter_cons_of_pos ht, List.length_cons] at hsum ⊢
      have hfirst : r.driftSum c 1 < c.wrapMs :=
        (r.driftSum_mono c (Nat.le_add_left 1 _)).trans_lt hsum
      obtain ⟨hclock, hcount, hstart⟩ := nextRegs_of_tick hc hv ht hsub hfirst
      have hpos : 0 < c.corrPeriod := by omega
      have hlaw := Regs.driftSum_of_tick hclock hcount hpos
      obtain ⟨ihclock, ihsub, ihstart⟩ := ih hvs (hcount ▸ Nat.mod_lt _ hpos) (hlaw _ ▸ hsum)
      refine ⟨ihclock.trans (hlaw _), ?_, ihstart.trans hstart⟩
      rw [ihsub, hcount, Nat.mod_add_mod, Nat.add_right_comm, Nat.add_assoc]

/-- The law of R78 over a run. -/
theorem runInputs_drift {s : State} (hl : s.cfg.Legal) {vs : List InVec}
    (hrst : ∀ v ∈ vs, vecRst v = false) (hsub : s.regs.sub.toNat < s.cfg.corrPeriod)
    (hsum : s.regs.driftSum s.cfg (vs.filter vecTick).length < s.cfg.wrapMs) :
    ∃ t, runInputs s vs = .next t ∧
      t.regs.clock.toNat = s.regs.driftSum s.cfg (vs.filter vecTick).length ∧
      t.regs.sub.toNat = (s.regs.sub.toNat + (vs.filter vecTick).length) % s.cfg.corrPeriod ∧
      t.regs.start = s.regs.start := by
  obtain ⟨o, hrun⟩ := runInputs_eq hl vs
  exact ⟨_, hrun, foldRegs_drift hl hrst hsub hsum⟩

/-- From `SUB = 0` the first `CORR_PERIOD - 1` ticks bring no correction. -/
theorem Regs.driftSum_before_correction {c : Config} {r : Regs} (h : r.sub.toNat = 0) {n : Nat}
    (hn : n < c.corrPeriod) : r.driftSum c n = r.clock.toNat + n * c.incMs := by
  rw [Regs.driftSum, h, Nat.zero_add, Nat.div_eq_of_lt hn, Nat.zero_mul, Nat.add_zero]

/-- From `SUB = 0` the tick number `CORR_PERIOD` brings the first correction. -/
theorem Regs.driftSum_corrPeriod {c : Config} {r : Regs} (h : r.sub.toNat = 0)
    (hpos : 0 < c.corrPeriod) :
    r.driftSum c c.corrPeriod = r.clock.toNat + (c.corrPeriod * c.incMs + c.corrMs) := by
  rw [Regs.driftSum, h, Nat.zero_add, Nat.div_self hpos, Nat.one_mul, Nat.add_assoc]

/-- Settles O22: the law over the whole run, and again over the run up to its last tick. -/
theorem driftCorrectionLaw : Obligations.DriftCorrectionLaw := by
  intro s vs hl hsub hrst n k hsum
  have hpos : 0 < s.cfg.corrPeriod := by omega
  obtain ⟨t, hrun, hclock, hcount, hstart⟩ := runInputs_drift hl hrst hsub hsum
  refine ⟨t, hrun, hclock, hcount, hstart, fun (hk : s.regs.sub.toNat = 0) hn => ⟨?_, ?_, ?_⟩⟩
  · exact (hclock.trans (congrArg _ hn)).trans (Regs.driftSum_corrPeriod hk hpos)
  · rw [hcount, hk, Nat.zero_add, ← hn, Nat.mod_self]
  · have hlast : n = (s.cfg.corrPeriod - 1) + 1 := by omega
    obtain ⟨before, after, v, rfl, hv, hafter, hticks⟩ := exists_last_tick hlast
    have hlt : s.cfg.corrPeriod - 1 < s.cfg.corrPeriod := by omega
    have hfits : s.regs.driftSum s.cfg (before.filter vecTick).length < s.cfg.wrapMs :=
      (s.regs.driftSum_mono s.cfg (by omega)).trans_lt hsum
    obtain ⟨u, hrun', hclock', hcount', -⟩ := runInputs_drift hl
      (fun w hw => hrst w (List.mem_append_left _ hw)) hsub hfits
    refine ⟨before, after, v, u, rfl, hv, hafter, hrun', ?_, ?_⟩
    · rw [hclock', hticks, Regs.driftSum_before_correction hk hlt]
    · rw [hcount', hticks, hk, Nat.zero_add, Nat.mod_eq_of_lt hlt]

end Sys2Proof.Machine
end

section
/-! Family 41_wake_flag: the pin samples and `CLRW` (R90 to R92), when `WAKE` falls and that it is sticky
(R93 to R95), and the latency from a captured change to the flag (R86 to R89). -/

namespace Sys2Proof

/-- The vectors whose pin slot carries the sample of a given level (R51). -/
theorem decodeSlot_pin_iff (v : InVec) (b : Bool) :
    decodeSlot .pin v = some (pinInstr b) ↔ vecRst v = false ∧ vecPin v = b := by
  cases hr : vecRst v with
  | true => simp [decodeSlot, hr]
  | false => cases hp : vecPin v <;> cases b <;> simp [decodeSlot, hr, hp, pinInstr]

/-- The row of a sample, as a comparison of the masked vector (R56). -/
theorem decodeSlot_pin_iff_masked (v : InVec) (b : Bool) :
    decodeSlot .pin v = some (pinInstr b) ↔
      v &&& 0x14000#17 = vecOf false false b false false 0x0#4 0x00#8 := by
  have hrow : (v &&& 0x14000#17 == vecOf false false b false false 0x0#4 0x00#8)
      = (!vecRst v && vecPin v == b) := selects_sample "SAMPLE" .pin v b
  rw [decodeSlot_pin_iff, ← beq_iff_eq (a := v &&& 0x14000#17), hrow]
  simp

end Sys2Proof

namespace Sys2Proof.Machine

/-! ## The operations on the flag (R85, R90 to R92) -/

theorem hostOpIs_iff (v : InVec) (i : Instr) :
    hostOpIs v i = true ↔ vecRst v = false ∧ decodeHost v = i := by
  cases hr : vecRst v <;> simp [hostOpIs, decodeSlot, hr]

/-- The flag after a sample, as R85 writes it. -/
theorem Regs.sample_eq (b : Bool) (r : Regs) :
    r.sample b = { r with
      prev := r.sy2, sy2 := r.sy1, sy1 := b
      wake := if r.sy2 ≠ r.prev then true else r.wake } := by
  by_cases h : r.sy2 = r.prev <;> simp [Regs.sample, Regs.wakeAfterSample, Regs.edge, h]

/-- Settles O27: the row of each sample and the one form of both samples. -/
theorem pinSampleShiftsAndSetsWakeOnAnEdge : Obligations.PinSampleShiftsAndSetsWakeOnAnEdge := by
  have hexec (b : Bool) (s : State) := (exec_pinInstr b s).trans (by rw [Regs.sample_eq])
  exact ⟨fun v => ⟨decodeSlot_pin_iff_masked v false, decodeSlot_pin_iff_masked v true⟩,
    fun s => ⟨hexec false s, hexec true s⟩⟩

/-- Settles O28: `CLRW` is the host operation of exactly the vectors that its row selects. -/
theorem clrwClearsTheFlagAndNothingElse : Obligations.ClrwClearsTheFlagAndNothingElse := by
  refine ⟨fun v => ?_, fun s => rfl⟩
  have hrow : (v &&& 0x13FFF#17 == 0x03102#17)
      = (!vecRst v && vecSel v && vecWe v && vecAddr v == 0x1#4 && vecWdata v == 0x02#8) :=
    selects_command "CLRW" .host v 0x02#8
  have hwires : decodeHost v = .clrw ↔ wireCommand v 0x02#8 = true :=
    decodeHost_eq_command_iff v 0x02#8
  rw [hostOpIs_iff, hwires, ← beq_iff_eq (b := 0x03102#17), hrow]
  simp [wireCommand, and_assoc]

/-! ## When the flag stays and when it falls (R93, R95) -/

/-- Settles O30: without reset a set flag is cleared by `CLRW` alone, and set again by an edge. -/
theorem wakeFallsOnlyByClrwOrReset : Obligations.WakeFallsOnlyByClrwOrReset := by
  intro s t h hset hclear
  obtain ⟨-, rfl⟩ := step_inv h
  cases hv : vecRst s.nextInput with
  | true => exact .inl rfl
  | false =>
    rw [State.after_regs, State.takeInput_regs, nextRegs_wake _ hv, hset] at hclear
    obtain ⟨hkept, hedge⟩ := Bool.or_eq_false_iff.1 hclear
    have hop : decodeHost s.nextInput = .clrw := by simpa using hkept
    exact .inr ⟨(hostOpIs_iff _ _).2 ⟨hv, hop⟩, by simpa using hedge⟩

theorem nextRegs_wake_of_edge (c : Config) {v : InVec} {r : Regs} (hv : vecRst v = false)
    (h : r.sy2 ≠ r.prev) : (nextRegs c v r).wake = true := by
  rw [nextRegs_wake c hv, bne_iff_ne.2 h, Bool.or_true]

theorem nextRegs_wake_of_no_edge (c : Config) {v : InVec} {r : Regs} (hv : vecRst v = false)
    (hwake : r.wake = false) (h : r.sy2 = r.prev) : (nextRegs c v r).wake = false := by
  simp [nextRegs_wake c hv, hwake, h]

/-- A cycle without `CLRW` and reset keeps a set flag (R93). -/
theorem nextRegs_wake_stays (c : Config) {v : InVec} {r : Regs}
    (hv : vecRst v = false ∧ hostOpIs v .clrw = false) (hwake : r.wake = true) :
    (nextRegs c v r).wake = true := by
  obtain ⟨hrst, hno⟩ := hv
  have hop : decodeHost v ≠ .clrw := fun h => by simp [(hostOpIs_iff v .clrw).2 ⟨hrst, h⟩] at hno
  rw [nextRegs_wake c hrst, if_neg hop, hwake, Bool.true_or]

/-- A run without `CLRW` and reset keeps a set flag (R93). -/
theorem foldRegs_wake_stays (c : Config) {vs : List InVec} {r : Regs}
    (hvs : ∀ v ∈ vs, vecRst v = false ∧ hostOpIs v .clrw = false) (hwake : r.wake = true) :
    (foldRegs c r vs).wake = true :=
  foldRegs_induct (P := fun q => q.wake = true)
    (fun _ v hv hq => nextRegs_wake_stays c (hvs v hv) hq) hwake

/-! ## Runs that keep the flag as it is (R93, R94) -/

/-- The outputs that a run records are those of its last cycle. -/
theorem runInputs_concat {s : State} (hl : s.cfg.Legal) (vs : List InVec) (v : InVec) :
    runInputs s (vs ++ [v]) = .next { s with
      regs := foldRegs s.cfg s.regs (vs ++ [v])
      inputs := []
      out := cycleOut v (foldRegs s.cfg s.regs vs) } := by
  induction vs generalizing s with
  | nil =>
    rw [List.nil_append, runInputs_cons hl]
    rfl
  | cons w ws ih =>
    rw [List.cons_append, runInputs_cons hl, ih (s := s.after w) hl]
    rfl

/-- What every cycle of a non-empty run keeps holds at its end, and of the registers whose flag `irq`
shows in its last cycle. -/
theorem runInputs_induct {P : Regs → Prop} {s : State} {vs : List InVec} (hl : s.cfg.Legal)
    (hne : vs ≠ []) (hstep : ∀ q, ∀ v ∈ vs, P q → P (nextRegs s.cfg v q)) (h : P s.regs) :
    ∃ t q, runInputs s vs = .next t ∧ P t.regs ∧ P q ∧ t.out.irq = q.wake := by
  obtain ⟨front, v, rfl⟩ := vs.eq_nil_or_concat'.resolve_left hne
  exact ⟨_, foldRegs s.cfg s.regs front, runInputs_concat hl front v, foldRegs_induct hstep h,
    foldRegs_induct (fun q w hw => hstep q w (List.mem_append_left _ hw)) h, rfl⟩

/-- Settles O34: every cycle of the run keeps the set flag. -/
theorem wakeIsStickyOverEveryRunWithoutClear : Obligations.WakeIsStickyOverEveryRunWithoutClear := by
  intro s vs hl hwake hne hvs
  obtain ⟨t, q, hrun, ht, hq, hirq⟩ := runInputs_induct (P := fun q => q.wake = true) hl hne
    (fun q v hv hq => nextRegs_wake_stays s.cfg (hvs v hv) hq) hwake
  exact ⟨t, hrun, ht, hirq.trans hq⟩

/-- The flag is clear and the pin's three samples are all at the level `b`. -/
def Regs.Quiet (b : Bool) (r : Regs) : Prop :=
  r.wake = false ∧ r.sy1 = b ∧ r.sy2 = b ∧ r.prev = b

theorem Regs.reset_quiet (c : Config) : (Regs.reset c).Quiet c.pinIdle := ⟨rfl, rfl, rfl, rfl⟩

/-- A cycle that captures the resting level again finds no edge, now or later. -/
theorem Regs.Quiet.nextRegs {b : Bool} {r : Regs} (h : r.Quiet b) (c : Config) {v : InVec}
    (hv : vecRst v = false) (hpin : vecPin v = b) : (Machine.nextRegs c v r).Quiet b := by
  obtain ⟨hwake, hsy1, hsy2, hprev⟩ := h
  obtain ⟨h1, h2, h3⟩ := nextRegs_sync c hv r
  exact ⟨nextRegs_wake_of_no_edge c hv hwake (hsy2.trans hprev.symm), h1.trans hpin,
    h2.trans hsy1, h3.trans hsy2⟩

/-- Settles O35: the reset state is quiet at `PIN_IDLE`, and every cycle of the run keeps it so. -/
theorem ticksAndHostNeverWakeWhileThePinRests :
    Obligations.TicksAndHostNeverWakeWhileThePinRests := by
  intro c vs hl hne hrst hrests
  have hpin : ∀ v ∈ vs, vecPin v = c.pinIdle := by simpa [pinRests] using hrests
  obtain ⟨t, q, hrun, ⟨ht, -⟩, ⟨hq, -⟩, hirq⟩ := runInputs_induct (P := Regs.Quiet c.pinIdle)
    (s := State.resetOf c) hl hne (fun q v hv hq => hq.nextRegs c (hrst v hv) (hpin v hv))
    (Regs.reset_quiet c)
  exact ⟨t, hrun, ht, hirq.trans hq⟩

/-! ## From a captured change to the flag (R86 to R89) -/

section ThreeCycles

variable (c : Config) {r : Regs} {v w : InVec} (hv : vecRst v = false) (hw : vecRst w = false)
include hv hw

/-- Two cycles bring a captured level to `SY2`, and the one captured before it to `PREV` (R88). -/
theorem nextRegs_nextRegs_edge (h : vecPin v ≠ r.sy1) :
    (nextRegs c w (nextRegs c v r)).sy2 ≠ (nextRegs c w (nextRegs c v r)).prev := by
  obtain ⟨hsy1, hsy2, -⟩ := nextRegs_sync c hv r
  obtain ⟨-, hsy2', hprev'⟩ := nextRegs_sync c hw (nextRegs c v r)
  rwa [hsy2', hprev', hsy1, hsy2]

/-- A captured level that differs from the one captured before it sets the flag in the third cycle,
whatever else the three cycles hold (R88). -/
theorem nextRegs_third_wake {x : InVec} (hx : vecRst x = false) (h : vecPin v ≠ r.sy1) :
    (nextRegs c x (nextRegs c w (nextRegs c v r))).wake = true :=
  nextRegs_wake_of_edge c hx (nextRegs_nextRegs_edge c hv hw h)

end ThreeCycles

/-- What `RD.STATUS` puts out (R103). -/
theorem cycleOut_rdStatus {v : InVec} (h : hostOpIs v .rdStatus = true) (r : Regs) :
    cycleOut v r = ⟨r.wake, 0#7 ++ BitVec.ofBool r.wake⟩ := by
  obtain ⟨hrst, hop⟩ := (hostOpIs_iff v .rdStatus).1 h
  simp [cycleOut, hrst, hop, hostByte, memRead]

/-- A step with a given vector: the outputs show the registers before it, the parameters stay. -/
theorem step_placeInput_next {c : Config} (hl : c.Legal) {s : State} (hs : s.cfg = c) (v : InVec) :
    ∃ t, step (s.placeInput v) = .next t ∧ t.cfg = c ∧ t.regs = nextRegs c v s.regs ∧
      t.out = cycleOut v s.regs := by
  subst hs
  exact ⟨_, step_placeInput hl v, rfl, rfl, rfl⟩

/-- Settles O32: the change passes `SY1` and `SY2` in two cycles that find no edge, and the third cycle
finds it. -/
theorem capturedChangeSetsWakeInTheThirdCycle :
    Obligations.CapturedChangeSetsWakeInTheThirdCycle := by
  intro s b v0 v1 v2 v3 hl hwake hsy1 hsy2 hprev h0 h1 h2 hpin hread
  obtain ⟨t0, hstep0, hcfg0, hregs0, -⟩ := step_placeInput_next hl rfl v0
  obtain ⟨t1, hstep1, hcfg1, hregs1, -⟩ := step_placeInput_next hl hcfg0 v1
  obtain ⟨t2, hstep2, hcfg2, hregs2, hout2⟩ := step_placeInput_next hl hcfg1 v2
  obtain ⟨t3, hstep3, -, -, hout3⟩ := step_placeInput_next hl hcfg2 v3
  have hchange : vecPin v0 ≠ s.regs.sy1 := by simp [hpin, hsy1]
  obtain ⟨hsy1', hsy2', hprev'⟩ := hregs0 ▸ nextRegs_sync s.cfg h0 s.regs
  have hwake0 : t0.regs.wake = false :=
    hregs0 ▸ nextRegs_wake_of_no_edge _ h0 hwake (hsy2.trans hprev.symm)
  have hrest0 : t0.regs.sy2 = t0.regs.prev := by rw [hsy2', hprev', hsy1, hsy2]
  have hwake1 : t1.regs.wake = false := hregs1 ▸ nextRegs_wake_of_no_edge _ h1 hwake0 hrest0
  have hedge1 : t1.regs.sy2 ≠ t1.regs.prev := by
    rw [hregs1, hregs0]
    exact nextRegs_nextRegs_edge _ h0 h1 hchange
  have hwake2 : t2.regs.wake = true := hregs2 ▸ nextRegs_wake_of_edge _ h2 hedge1
  rw [cycleOut_rdStatus hread, hwake2] at hout3
  exact ⟨t0, t1, t2, t3, hstep0, hstep1, hstep2, hstep3, hwake0, by rwa [hsy1', hsy2'], hwake1,
    hedge1, hwake2, by rw [hout2, cycleOut, hwake1], by rw [hout3], by rw [hout3]; rfl⟩

/-- Settles O33: the change is captured in the first cycle or, failing that, in the second, at the
stable level; the flag follows in the third cycle from there and stays. -/
theorem changingPinSetsWakeForEveryAdmittedCapture :
    Obligations.ChangingPinSetsWakeForEveryAdmittedCapture := by
  intro s b pins vs hl hsy1 _ _ hvs hadmits hlen
  obtain ⟨o, hrun⟩ := runInputs_eq hl vs
  refine ⟨_, hrun, ?_⟩
  match vs, hlen with
  | v0 :: v1 :: v2 :: v3 :: rest, _ =>
    simp only [List.forall_mem_cons] at hvs
    obtain ⟨⟨h0, -⟩, ⟨h1, -⟩, ⟨h2, -⟩, hv3, hrest⟩ := hvs
    simp only [List.map_cons, admitsAll, PinAtEdge.admits, Bool.and_eq_true, beq_iff_eq] at hadmits
    obtain ⟨-, hstable, -⟩ := hadmits
    simp only [foldRegs_cons]
    refine foldRegs_wake_stays s.cfg hrest ?_
    by_cases hfirst : vecPin v0 = b
    · have hchange : vecPin v1 ≠ (nextRegs s.cfg v0 s.regs).sy1 := by
        simp [(nextRegs_sync s.cfg h0 s.regs).1, hfirst, hstable]
      exact nextRegs_third_wake s.cfg h1 h2 hv3.1 hchange
    · exact nextRegs_wake_stays s.cfg hv3 (nextRegs_third_wake s.cfg h0 h1 h2 (hsy1 ▸ hfirst))

end Sys2Proof.Machine
end

section
/-! Family 42_snapshot_and_host_reads: the vectors of the host operations (R56), the bytes of the
reads and the effect of the commands (R100 to R118), and the reads of one snapshot (R119, R170). -/

namespace Sys2Proof.Machine

/-! ## The vectors that carry a host operation (R56) -/

/-- The row of a command, as a comparison of the masked vector. -/
theorem hostOpIs_command_iff_masked (v : InVec) (op : Byte) :
    hostOpIs v (decodeWrite 0x1#4 op) = true ↔
      v &&& 0x13FFF#17 = vecOf false false false true true 0x1#4 op := by
  have hrow : (v &&& 0x13FFF#17 == vecOf false false false true true 0x1#4 op)
      = (!vecRst v && vecSel v && vecWe v && vecAddr v == 0x1#4 && vecWdata v == op) :=
    selects_command "" .host v op
  rw [hostOpIs_iff, decodeHost_eq_command_iff, ← beq_iff_eq (a := v &&& 0x13FFF#17), hrow]
  simp [wireCommand, and_assoc]

theorem decodeHost_eq_idle_iff (v : InVec) : decodeHost v = .idle ↔ vecSel v = false := by
  have hidle : decodeHost (vecOf false false false false false 0x0#4 0x00#8) = .idle := by
    simp [decodeHost]
  rw [← hidle, decodeHost_eq_iff]
  simp +contextual

/-- The row of `IDLE`, as a comparison of the masked vector. -/
theorem hostOpIs_idle_iff_masked (v : InVec) :
    hostOpIs v .idle = true ↔ v &&& 0x12000#17 = 0x00000#17 := by
  have hrow : (v &&& 0x12000#17 == 0x00000#17) = (!vecRst v && !vecSel v) :=
    selects_idle "" .host v
  rw [hostOpIs_iff, decodeHost_eq_idle_iff, ← beq_iff_eq (a := v &&& 0x12000#17), hrow]
  simp

theorem decodeHost_vecOf_read (a : Addr) :
    decodeHost (vecOf false false false true false a 0x00#8) = decodeRead a := by
  simp [decodeHost]

theorem decodeHost_eq_read_iff (v : InVec) (a : Addr) :
    decodeHost v = decodeRead a ↔ vecSel v = true ∧ vecWe v = false ∧ vecAddr v = a := by
  rw [← decodeHost_vecOf_read, decodeHost_eq_iff]
  simp +contextual

/-- The row of the read at the address `a`, as a comparison of the masked vector. -/
theorem hostOpIs_read_iff_masked (v : InVec) (a : Addr) :
    hostOpIs v (decodeRead a) = true ↔
      v &&& 0x13F00#17 = vecOf false false false true false a 0x00#8 := by
  have hrow : (v &&& 0x13F00#17 == vecOf false false false true false a 0x00#8)
      = (!vecRst v && vecSel v && !vecWe v && vecAddr v == a) :=
    selects_read "" .host v a
  rw [hostOpIs_iff, decodeHost_eq_read_iff, ← beq_iff_eq (a := v &&& 0x13F00#17), hrow]
  simp [and_assoc]

/-! ## Host operations that change no register (R33, R58, R100, R102) -/

/-- Every host operation but the two commands with an effect only drives the outputs. -/
theorem exec_host_of_no_effect {i : Instr} (hi : i.slot = .host) (hsnap : i ≠ .snap)
    (hclrw : i ≠ .clrw) (s : State) :
    exec i s = .next { s with out := { irq := s.regs.wake, rdata := hostByte i s.regs } } := by
  rw [exec_host hi, hostEffect_eq_self hsnap hclrw]
  rfl

theorem decodeRead_no_effect (a : Addr) :
    (decodeRead a).slot = .host ∧ decodeRead a ≠ .snap ∧ decodeRead a ≠ .clrw := by
  decide +revert

theorem hostByte_decodeRead (a : Addr) (r : Regs) : hostByte (decodeRead a) r = memRead r a := by
  rw [← decodeHost_vecOf_read, hostByte_decodeHost]
  simp

/-- The read at the address `a` puts out the byte of the register map and changes no register. -/
theorem exec_decodeRead (a : Addr) (s : State) :
    exec (decodeRead a) s
      = .next { s with out := { irq := s.regs.wake, rdata := memRead s.regs a } } := by
  obtain ⟨hi, hsnap, hclrw⟩ := decodeRead_no_effect a
  rw [exec_host_of_no_effect hi hsnap hclrw, hostByte_decodeRead]

/-- Settles O37: the rows of `NOP` and `IDLE`; all three operations are host operations without
effect, whose byte is 0x00. -/
theorem nopIdleAndIgnoredWritesChangeNothing :
    Obligations.NopIdleAndIgnoredWritesChangeNothing :=
  ⟨fun v => ⟨hostOpIs_command_iff_masked v 0x00#8, hostOpIs_idle_iff_masked v⟩,
    fun s addr wdata => ⟨exec_host_of_no_effect (i := .nop) rfl nofun nofun s,
      exec_host_of_no_effect (i := .idle) rfl nofun nofun s,
      exec_host_of_no_effect (i := .wrIgn addr wdata) rfl nofun nofun s⟩⟩

/-- Settles O38: the row of `SNAP`, and its effect as the host operation that takes the snapshot. -/
theorem snapCopiesTheClock : Obligations.SnapCopiesTheClock :=
  ⟨fun v => hostOpIs_command_iff_masked v 0x01#8, fun s => exec_host rfl s⟩

/-! ## The bytes that the reads return (R103 to R118) -/

/-- `STATUS` is the flag in bit 0 (R103). -/
theorem statusByte_toNat (w : Bool) :
    (0#7 ++ BitVec.ofBool w : Byte).toNat = if w then 1 else 0 := by
  cases w <;> rfl

/-- The four bytes of a word in natural numbers; the last needs no remainder (R35). -/
theorem byteOf_toNat_all (w : Word) :
    (byteOf w 0).toNat = w.toNat % 256 ∧ (byteOf w 1).toNat = w.toNat / 2 ^ 8 % 256 ∧
      (byteOf w 2).toNat = w.toNat / 2 ^ 16 % 256 ∧ (byteOf w 3).toNat = w.toNat / 2 ^ 24 := by
  have hlast : w.toNat / 2 ^ 24 < 256 := by
    have := w.isLt
    omega
  refine ⟨?_, byteOf_toNat w 1, byteOf_toNat w 2, ?_⟩
  · simpa using byteOf_toNat w 0
  · exact (byteOf_toNat w 3).trans (Nat.mod_eq_of_lt hlast)

/-- Settles O40: the row and the meaning of the read at each address, and the bytes there. -/
theorem readsOfFlagCountAndSnapshotReturnTheirBytes :
    Obligations.ReadsOfFlagCountAndSnapshotReturnTheirBytes := by
  refine ⟨fun v => ?rows, fun s => ?reads⟩
  case rows =>
    have row := hostOpIs_read_iff_masked v
    exact ⟨row 0x0#4, row 0x1#4, row 0x2#4, row 0x3#4, row 0x4#4, row 0x5#4, row 0x6#4, row 0x7#4,
      row 0xF#4⟩
  case reads =>
    have read (a : Addr) := exec_decodeRead a s
    obtain ⟨h0, h1, h2, h3⟩ := byteOf_toNat_all s.regs.snap
    exact ⟨_, _, _, _, _, _, statusByte_toNat s.regs.wake, rfl, h0, h1, h2, h3, read 0x0#4,
      read 0x1#4, read 0x2#4, read 0x3#4, read 0x4#4, read 0x5#4, read 0x6#4, read 0x7#4,
      read 0xF#4⟩

/-! ## The packed digits (R115 to R117, R121, R122) -/

/-- The tens and the ones of a number of two digits. -/
theorem packDigits_div_mod_toNat {n : Nat} (h : n < 100) :
    (packDigits (n / 10) (n % 10)).toNat = 16 * (n / 10) + n % 10 :=
  packDigits_toNat (by omega) (by omega)

/-- Only the hours need the bound on the argument to have at most two digits. -/
theorem packedHours_toNat {t : Nat} (h : t < 86400000) :
    (packedHours (decodeTime t)).toNat = 16 * (t / 1000 / 3600 / 10) + t / 1000 / 3600 % 10 :=
  packDigits_div_mod_toNat (n := t / 1000 / 3600) (by omega)

theorem packedMinutes_toNat (t : Nat) :
    (packedMinutes (decodeTime t)).toNat
      = 16 * (t / 1000 % 3600 / 60 / 10) + t / 1000 % 3600 / 60 % 10 :=
  packDigits_div_mod_toNat (n := t / 1000 % 3600 / 60) (by omega)

theorem packedSeconds_toNat (t : Nat) :
    (packedSeconds (decodeTime t)).toNat = 16 * (t / 1000 % 60 / 10) + t / 1000 % 60 % 10 :=
  packDigits_div_mod_toNat (n := t / 1000 % 60) (by omega)

/-- What stands at `DEC_H`, `DEC_M` and `DEC_S` for a snapshot to which `Decode` gives a meaning. -/
theorem memRead_digits {r : Regs} (h : r.snap.toNat < 86400000) :
    memRead r 0xC#4 = packedHours (decodeTime r.snap.toNat) ∧
      memRead r 0xD#4 = packedMinutes (decodeTime r.snap.toNat) ∧
      memRead r 0xE#4 = packedSeconds (decodeTime r.snap.toNat) :=
  ⟨decodedByte_of_lt h _, decodedByte_of_lt h _, decodedByte_of_lt h _⟩

/-- Settles O41: the row and the meaning of the read at each address, the bytes of `START`, and the
digits where `Decode` has a meaning. -/
theorem readsOfStartAndDigitsReturnTheirBytes :
    Obligations.ReadsOfStartAndDigitsReturnTheirBytes := by
  refine ⟨fun v => ?rows, fun s => ?reads⟩
  case rows =>
    have row := hostOpIs_read_iff_masked v
    exact ⟨row 0x8#4, row 0x9#4, row 0xA#4, row 0xB#4, row 0xC#4, row 0xD#4, row 0xE#4⟩
  case reads =>
    have read (a : Addr) := exec_decodeRead a s
    obtain ⟨h0, h1, h2, h3⟩ := byteOf_toNat_all s.regs.start
    refine ⟨_, _, _, _, _, _, _, h0, h1, h2, h3, fun hlt => ?digits, read 0x8#4, read 0x9#4,
      read 0xA#4, read 0xB#4, read 0xC#4, read 0xD#4, read 0xE#4⟩
    case digits =>
      obtain ⟨hC, hD, hE⟩ := memRead_digits hlt
      exact ⟨hC ▸ packedHours_toNat hlt, hD ▸ packedMinutes_toNat _, hE ▸ packedSeconds_toNat _⟩

/-! ## The reads of one snapshot (R119, R170) -/

/-- Without reset an operation that the host slot does not carry is not the one decoded there. -/
theorem decodeHost_ne {v : InVec} {i : Instr} (hrst : vecRst v = false)
    (hno : hostOpIs v i = false) : decodeHost v ≠ i :=
  fun h => Bool.false_ne_true (hno.symm.trans ((hostOpIs_iff v i).2 ⟨hrst, h⟩))

theorem nextRegs_snap_of_snap (c : Config) {v : InVec} (h : hostOpIs v .snap = true) (r : Regs) :
    (nextRegs c v r).snap = r.clock := by
  obtain ⟨hrst, hop⟩ := (hostOpIs_iff v .snap).1 h
  rw [nextRegs_snap c hrst, if_pos hop]

/-- A cycle without `SNAP` and reset keeps the snapshot. -/
theorem nextRegs_snap_stays (c : Config) {v : InVec}
    (hv : vecRst v = false ∧ hostOpIs v .snap = false) (r : Regs) :
    (nextRegs c v r).snap = r.snap := by
  obtain ⟨hrst, hno⟩ := hv
  rw [nextRegs_snap c hrst, if_neg (decodeHost_ne hrst hno)]

/-- After a `SNAP` and a run without `SNAP` and reset, `SNAP` holds what `CLOCK` held at the start
of the cycle of the `SNAP`. -/
theorem runInputs_snap {s t : State} {v : InVec} {between : List InVec} (hl : s.cfg.Legal)
    (hv : hostOpIs v .snap = true)
    (hbetween : ∀ w ∈ between, vecRst w = false ∧ hostOpIs w .snap = false)
    (hrun : runInputs s (v :: between) = .next t) : t.regs.snap = s.regs.clock := by
  rw [(runInputs_inv hl hrun).1, foldRegs_cons]
  exact foldRegs_induct (P := fun q => q.snap = s.regs.clock)
    (fun q w hw hq => (nextRegs_snap_stays s.cfg (hbetween w hw) q).trans hq)
    (nextRegs_snap_of_snap s.cfg hv s.regs)

/-- Settles O45: the snapshot is the clock of the `SNAP`'s cycle, and each read is of it. -/
theorem snapshotReadsAreOfOneValueOfTheClock :
    Obligations.SnapshotReadsAreOfOneValueOfTheClock := by
  intro s t u v between r a hl hv hbetween hrun hrst hsel hwe haddr hstep
  subst haddr
  have hsnap := runInputs_snap hl hv hbetween hrun
  have hout : u.out.rdata = memRead t.regs (vecAddr r) :=
    (outputsComeFromTheStateAtTheStartOfTheCycle t u r hstep).2.1 ⟨hrst, hsel, hwe⟩
  rw [hout, ← hsnap]
  obtain ⟨h0, h1, h2, h3⟩ := byteOf_toNat_all t.regs.snap
  refine ⟨fun ha => by rwa [ha], fun ha => by rwa [ha], fun ha => by rwa [ha],
    fun ha => by rwa [ha], fun hlt => ?digits⟩
  case digits =>
    obtain ⟨hC, hD, hE⟩ := memRead_digits hlt
    exact ⟨fun ha => by rwa [ha], fun ha => by rwa [ha], fun ha => by rwa [ha]⟩

end Sys2Proof.Machine
end

section
/-! Family 43_time_decode: the time of day that `Decode` computes (R121), the source's property of it
(R123), and its packed digits (R122). -/

namespace Sys2Proof.Machine

/-! ## The decoded time is the second of the day (R121, R123) -/

theorem decodeTime_minutes_le (t : Nat) : (decodeTime t).minutes ≤ 59 := by
  have e : (decodeTime t).minutes = t / 1000 % 3600 / 60 := rfl
  omega

theorem decodeTime_seconds_le (t : Nat) : (decodeTime t).seconds ≤ 59 :=
  Nat.le_of_lt_succ (Nat.mod_lt (t / 1000) (by decide))

/-- Hours, minutes and seconds lose nothing of `t` but the part below a second. -/
theorem decodeTime_secondOfDay (t : Nat) :
    (decodeTime t).hours * 3600 + (decodeTime t).minutes * 60 + (decodeTime t).seconds
      = t / 1000 := by
  have hhours : (decodeTime t).hours = t / 1000 / 3600 := rfl
  have hminutes : (decodeTime t).minutes = t / 1000 % 3600 / 60 := rfl
  have hseconds : (decodeTime t).seconds = t / 1000 % 60 := rfl
  omega

/-- Minutes and seconds below 60 are digits to the base 60, so two such times of the same second of
the day agree in each part. -/
theorem timeOfDay_unique {h m x h' m' x' : Nat} (hm : m ≤ 59) (hx : x ≤ 59) (hm' : m' ≤ 59)
    (hx' : x' ≤ 59) (heq : h * 3600 + m * 60 + x = h' * 3600 + m' * 60 + x') :
    h = h' ∧ m = m' ∧ x = x' := by
  omega

/-- Whole seconds before the milliseconds within a second are the quotient by 1000. -/
theorem second_eq_div {n t : Nat} (h : t = n * 1000 + t % 1000) : n = t / 1000 := by
  omega

/-- Settles O47: the decoded time is the second of the day, which has one time of day only. -/
theorem decodeIsTheOnlyTimeOfDayOfASnapshot : Obligations.DecodeIsTheOnlyTimeOfDayOfASnapshot := by
  intro t ht
  have hday := decodeTime_secondOfDay t
  have hmin := decodeTime_minutes_le t
  have hsec := decodeTime_seconds_le t
  refine ⟨⟨decodeTime_hours_le ht, hmin, hsec, ?property⟩, fun h m x _ hm hx heq => ?unique⟩
  case property =>
    rw [hday]
    exact (Nat.div_add_mod' t 1000).symm
  case unique =>
    exact timeOfDay_unique hm hx hmin hsec ((second_eq_div heq).trans hday.symm)

/-! ## The digits of the decoded time (R122) -/

/-- No time of day is later than that of the last argument: `Decode` is monotone in the second. -/
theorem decodeTime_secondOfDay_mono {t u : Nat} (h : t ≤ u) :
    3600 * (decodeTime t).hours + 60 * (decodeTime t).minutes + (decodeTime t).seconds
      ≤ 3600 * (decodeTime u).hours + 60 * (decodeTime u).minutes + (decodeTime u).seconds := by
  have ht := decodeTime_secondOfDay t
  have hu := decodeTime_secondOfDay u
  have hdiv : t / 1000 ≤ u / 1000 := Nat.div_le_div_right h
  omega

/-- The last argument of the default threshold is the time 23:59:58. -/
theorem decodeTime_last_default :
    (decodeTime 86398999).hours = 23 ∧ (decodeTime 86398999).minutes = 59 ∧
      (decodeTime 86398999).seconds = 58 := by
  decide

/-- Settles O48: the digits are quotient and remainder by ten of a part of the time, so the bounds of
the parts bound them; the last argument of the default threshold decodes to the latest time. -/
theorem packedBytesReadAsDecimalTime : Obligations.PackedBytesReadAsDecimalTime := by
  refine ⟨by decide, fun t ht => ?_⟩
  have hhours := decodeTime_hours_le ht
  have hmin := decodeTime_minutes_le t
  have hsec := decodeTime_seconds_le t
  have digits (n : Nat) : n = 10 * (n / 10) + n % 10 := (Nat.div_add_mod n 10).symm
  have ones (n : Nat) : n % 10 ≤ 9 := Nat.le_of_lt_succ (Nat.mod_lt n (by decide))
  have tens {n k : Nat} (h : n ≤ k) : n / 10 ≤ k / 10 := Nat.div_le_div_right h
  refine ⟨packedHours_toNat ht, packedMinutes_toNat t, packedSeconds_toNat t, digits _, digits _,
    digits _, hhours, hmin, hsec, tens hhours, tens hmin, tens hsec, ones _, ones _, ones _,
    fun hle => ?latest⟩
  case latest =>
    obtain ⟨h23, h59, h58⟩ := decodeTime_last_default
    simpa only [h23, h59, h58] using decodeTime_secondOfDay_mono hle

end Sys2Proof.Machine
end

section
/-! Family 60_exceptions: every step completes (R130), a day ends (R151), the ties within one cycle
(R136, R137), and the consumer that R141 and R142 prescribe. -/

namespace Sys2Proof.Machine

/-! ## Nothing faults (R130) -/

theorem Instr.eq_reset_of_slot {i : Instr} (hi : i.slot = .reset) : i = .reset := by
  cases i with
  | reset => rfl
  | _ => cases hi

/-- Settles O12, slot by slot: the equation of each slot's operations gives the next state. -/
theorem everyOperationAndEveryLegalStepCompletes :
    Obligations.EveryOperationAndEveryLegalStepCompletes := by
  refine ⟨fun i s => ?_, fun s hl => ⟨_, step_eq hl, rfl⟩⟩
  cases hi : i.slot with
  | reset =>
    obtain rfl := Instr.eq_reset_of_slot hi
    exact ⟨_, exec_reset s, rfl, rfl, rfl⟩
  | tick =>
    obtain rfl := Instr.eq_tick_of_slot hi
    exact ⟨_, exec_tick s, rfl, rfl, rfl⟩
  | pin =>
    obtain ⟨b, rfl⟩ := Instr.eq_pinInstr_of_slot hi
    exact ⟨_, exec_pinInstr b s, rfl, rfl, rfl⟩
  | host => exact ⟨_, exec_host hi s, rfl, rfl, rfl⟩

/-! ## A day ends (R79, R151) -/

/-- A tick that does not wrap brings `CLOCK` nearer to the threshold by the increment at least. -/
theorem nextRegs_clock_of_no_wrap {c : Config} (hc : c.Legal) {v : InVec} {r : Regs}
    (hv : vecRst v = false) (ht : vecTick v = true) (hw : r.tickWraps c = false) :
    r.clock.toNat + c.incMs ≤ (nextRegs c v r).clock.toNat ∧
      (nextRegs c v r).clock.toNat < c.wrapMs := by
  have hbelow : ¬ c.wrapMs ≤ r.tickSum c := by simp [← Regs.tickWraps_iff, hw]
  rw [nextRegs_clock c hv, if_pos ht, Regs.tick_clock_toNat hc, if_neg hbelow]
  rw [Regs.tickSum_eq] at hbelow ⊢
  omega

/-- Ticks whose increments carry `CLOCK` to the threshold include one that wraps: as long as none does,
each takes its increment off the distance to the threshold. -/
theorem exists_wrapping_tick {c : Config} (hc : c.Legal) {vs : List InVec} {r : Regs}
    (hrst : ∀ v ∈ vs, vecRst v = false) (hpos : 0 < (vs.filter vecTick).length)
    (hsum : c.wrapMs ≤ r.clock.toNat + (vs.filter vecTick).length * c.incMs) :
    ∃ before after v, vs = before ++ v :: after ∧ vecRst v = false ∧ vecTick v = true ∧
      (foldRegs c r before).tickWraps c = true := by
  induction vs generalizing r with
  | nil => simp at hpos
  | cons v vs ih =>
    obtain ⟨hv, hvs⟩ := List.forall_mem_cons.1 hrst
    by_cases hnow : vecTick v = true ∧ r.tickWraps c = true
    · exact ⟨[], vs, v, rfl, hv, hnow⟩
    suffices hrest : 0 < (vs.filter vecTick).length ∧
        c.wrapMs ≤ (nextRegs c v r).clock.toNat + (vs.filter vecTick).length * c.incMs by
      obtain ⟨hpos', hsum'⟩ := hrest
      obtain ⟨before, after, w, rfl, hw⟩ := ih hvs hpos' hsum'
      exact ⟨v :: before, after, w, rfl, hw⟩
    cases ht : vecTick v with
    | false =>
      rw [List.filter_cons_of_neg (by simp [ht])] at hpos hsum
      rw [(nextRegs_of_not_tick c r hv ht).1]
      exact ⟨hpos, hsum⟩
    | true =>
      have hno : r.tickWraps c = false := by simpa [ht] using hnow
      obtain ⟨hnear, hlt⟩ := nextRegs_clock_of_no_wrap hc hv ht hno
      rw [List.filter_cons_of_pos ht, List.length_cons, Nat.succ_mul] at hsum
      have hreach : c.wrapMs
          ≤ (nextRegs c v r).clock.toNat + (vs.filter vecTick).length * c.incMs := by omega
      refine ⟨Nat.pos_of_ne_zero fun hzero => ?_, hreach⟩
      rw [hzero, Nat.zero_mul] at hreach
      omega

/-- Settles O24: the threshold is not 0, so there is a tick, and one of the ticks wraps. -/
theorem enoughTicksAlwaysReachAWrap : Obligations.EnoughTicksAlwaysReachAWrap := by
  intro s vs hl hrst hsum
  have hpos : 0 < (vs.filter vecTick).length := Nat.pos_of_ne_zero fun hzero => by
    rw [hzero, Nat.zero_mul] at hsum
    omega
  obtain ⟨before, after, v, hvs, hv, htick, hwrap⟩ :=
    exists_wrapping_tick hl hrst hpos (hsum.trans (Nat.le_add_left _ _))
  obtain ⟨t, hrun⟩ : ∃ t, runInputs s before = .next t :=
    let ⟨_, h⟩ := runInputs_eq hl before
    ⟨_, h⟩
  obtain ⟨hregs, hcfg, -⟩ := runInputs_inv hl hrun
  obtain ⟨u, hstep, -⟩ := step_placeInput_next hl hcfg v
  rw [← hregs, ← hcfg] at hwrap
  exact ⟨before, after, v, t, u, hvs, hrun, htick, hwrap, hstep,
    (startResetsInLockstepWithTheClock t u v hv hstep).1 ⟨htick, hwrap⟩⟩

/-! ## Ties within one cycle (R136, R137) -/

/-- Settles O29: the sample comes after the host operation, and its edge sets the flag. -/
theorem setWinsOverClear : Obligations.SetWinsOverClear := by
  intro s v hl hop hedge
  obtain ⟨hv, -⟩ := (hostOpIs_iff v .clrw).1 hop
  obtain ⟨t, ht, hcfg, hregs, -⟩ := step_placeInput_next hl rfl v
  have hwake : t.regs.wake = true := hregs ▸ nextRegs_wake_of_edge s.cfg hv hedge
  refine ⟨t, ht, hwake, fun w => ?_⟩
  obtain ⟨u, hu, -, -, hout⟩ := step_placeInput_next hl hcfg w
  exact ⟨u, hu, by rw [hout, cycleOut, hwake]⟩

/-- The byte of a cycle's host operation is that of the registers at the start of the cycle. -/
theorem cycleOut_rdata_of_hostOpIs {v : InVec} {i : Instr} (h : hostOpIs v i = true) (r : Regs) :
    (cycleOut v r).rdata = hostByte i r := by
  obtain ⟨hv, rfl⟩ := (hostOpIs_iff v i).1 h
  simp [cycleOut, hv]

/-- Settles O39: the host operation comes before the tick, which reads none of what it writes. -/
theorem snapshotAndReadsSeeTheValueBeforeTheTick :
    Obligations.SnapshotAndReadsSeeTheValueBeforeTheTick := by
  intro s v hl hv ht
  obtain ⟨t, hstep, -, hregs, hout⟩ := step_placeInput_next hl rfl v
  obtain ⟨h0, h1, h2, h3⟩ := byteOf_toNat_all s.regs.start
  have hbyte {i : Instr} (h : hostOpIs v i = true) : t.out.rdata = hostByte i s.regs := by
    rw [hout, cycleOut_rdata_of_hostOpIs h]
  refine ⟨t, _, hstep, exec_tick s, ?clock, ?sub, ?start, fun h => ?snap, fun h => hbyte h,
    fun h => hbyte h ▸ h0, fun h => hbyte h ▸ h1, fun h => hbyte h ▸ h2, fun h => hbyte h ▸ h3⟩
  case clock => rw [hregs, nextRegs_clock _ hv, if_pos ht, State.setRegs_regs]
  case sub => rw [hregs, nextRegs_sub _ hv, if_pos ht, State.setRegs_regs]
  case start => rw [hregs, nextRegs_start _ hv, if_pos ht, State.setRegs_regs]
  case snap => rw [hregs, nextRegs_snap_of_snap _ h]

/-! ## One turn of the consumer (R141, R142) -/

/-- The vector of the consumer's cycle. -/
def turnVector (p : Phase) (e : Surroundings) : InVec := encodeCycle (.run p.hostOp e.tick e.pin)

/-- What the assembled vector selects: a finite fact, phase by phase over both wires. -/
theorem decode_turnVector (p : Phase) (e : Surroundings) :
    decode (turnVector p e) = .run p.hostOp e.tick e.pin := by
  obtain ⟨tick, pin, other⟩ := e
  cases p <;> decide +revert

theorem turnVector_fields (p : Phase) (e : Surroundings) :
    vecRst (turnVector p e) = false ∧ decodeHost (turnVector p e) = p.hostOp ∧
      vecPin (turnVector p e) = e.pin := by
  have hd := decode_turnVector p e
  cases hr : vecRst (turnVector p e) with
  | true => simp [decode_of_rst hr] at hd
  | false =>
    rw [decode_of_not_rst hr] at hd
    injection hd with hhost _ hpin
    exact ⟨rfl, hhost, hpin⟩

/-- One turn over the consumer and the block's registers alone: the consumer sees the outputs of the
cycle, which come from the registers at its start. -/
def regsTurn (c : Config) (x : Consumer × Regs) (e : Surroundings) : Consumer × Regs :=
  (x.1.observe ⟨x.2.wake, hostByte x.1.phase.hostOp x.2⟩ e.other,
    nextRegs c (turnVector x.1.phase e) x.2)

/-- The turns of a list, over the consumer and the registers. -/
def regsTurns (c : Config) (x : Consumer × Regs) (es : List Surroundings) : Consumer × Regs :=
  es.foldl (regsTurn c) x

@[simp] theorem regsTurns_nil (c : Config) (x : Consumer × Regs) : regsTurns c x [] = x := rfl
@[simp] theorem regsTurns_cons (c : Config) (x : Consumer × Regs) (e : Surroundings)
    (es : List Surroundings) : regsTurns c x (e :: es) = regsTurns c (regsTurn c x e) es := rfl

theorem cycleOut_turnVector (p : Phase) (e : Surroundings) (r : Regs) :
    cycleOut (turnVector p e) r = ⟨r.wake, hostByte p.hostOp r⟩ := by
  obtain ⟨hrst, hhost, -⟩ := turnVector_fields p e
  simp [cycleOut, hrst, hhost]

/-- Everything a turn of a legal block can do. -/
theorem turn_eq {s : State} (hl : s.cfg.Legal) (e : Surroundings) (k : Consumer) :
    ∃ t, turn e k s = .next ((regsTurn s.cfg (k, s.regs) e).1, t) ∧
      t.regs = (regsTurn s.cfg (k, s.regs) e).2 ∧ t.cfg = s.cfg := by
  obtain ⟨t, hstep, hcfg, hregs, hout⟩ := step_placeInput_next hl rfl (turnVector k.phase e)
  rw [cycleOut_turnVector] at hout
  rw [turnVector] at hstep
  exact ⟨t, by simp only [turn, hstep, regsTurn, hout], hregs, hcfg⟩

/-- The turns of a legal block complete, and what they do to the consumer and the registers is
`regsTurns`. -/
theorem turns_eq {s : State} (hl : s.cfg.Legal) (es : List Surroundings) (k : Consumer) :
    ∃ t, turns es k s = .next ((regsTurns s.cfg (k, s.regs) es).1, t) ∧
      t.regs = (regsTurns s.cfg (k, s.regs) es).2 := by
  induction es generalizing k s with
  | nil => exact ⟨s, rfl, rfl⟩
  | cons e es ih =>
    obtain ⟨u, hturn, hregs, hcfg⟩ := turn_eq hl e k
    obtain ⟨t, hturns, ht⟩ := ih (s := u) (hcfg ▸ hl) (regsTurn s.cfg (k, s.regs) e).1
    rw [hregs, hcfg] at hturns ht
    exact ⟨t, by simp only [turns, hturn, hturns, regsTurns_cons], ht⟩

/-- The induction over the turns, packaged. -/
theorem regsTurns_induct {c : Config} {P : Consumer × Regs → Prop} {es : List Surroundings}
    {x : Consumer × Regs} (hstep : ∀ y, ∀ e ∈ es, P y → P (regsTurn c y e)) (h : P x) :
    P (regsTurns c x es) := by
  induction es generalizing x with
  | nil => exact h
  | cons e es ih =>
    exact ih (fun y f hf => hstep y f (List.mem_cons_of_mem _ hf)) (hstep x e List.mem_cons_self h)

/-! ### What a phase does to the registers -/

theorem Phase.hostOp_eq_snap_iff (p : Phase) : p.hostOp = .snap ↔ p = .snap := by
  cases p <;> decide

theorem Phase.hostOp_eq_clrw_iff (p : Phase) : p.hostOp = .clrw ↔ p = .clear := by
  cases p <;> decide

/-- Only the snapshot's phase writes `SNAP`. -/
@[simp] theorem nextRegs_turnVector_snap (c : Config) (p : Phase) (e : Surroundings) (r : Regs) :
    (nextRegs c (turnVector p e) r).snap = if p = .snap then r.clock else r.snap := by
  obtain ⟨hrst, hhost, -⟩ := turnVector_fields p e
  simp only [nextRegs_snap c hrst, hhost, Phase.hostOp_eq_snap_iff]

/-- Only the phase of the `CLRW` clears the flag. -/
theorem nextRegs_turnVector_wake (c : Config) (p : Phase) (e : Surroundings) (r : Regs) :
    (nextRegs c (turnVector p e) r).wake
      = ((if p = .clear then false else r.wake) || r.sy2 != r.prev) := by
  obtain ⟨hrst, hhost, -⟩ := turnVector_fields p e
  simp only [nextRegs_wake c hrst, hhost, Phase.hostOp_eq_clrw_iff]

@[simp] theorem nextRegs_turnVector_sync (c : Config) (p : Phase) (e : Surroundings) (r : Regs) :
    (nextRegs c (turnVector p e) r).sy1 = e.pin ∧ (nextRegs c (turnVector p e) r).sy2 = r.sy1 ∧
      (nextRegs c (turnVector p e) r).prev = r.sy2 := by
  obtain ⟨hrst, -, hpin⟩ := turnVector_fields p e
  rw [← hpin]
  exact nextRegs_sync c hrst r

/-! ### What the consumer sees -/

theorem statusByte_getLsbD_zero (w : Bool) : (0#7 ++ BitVec.ofBool w : Byte).getLsbD 0 = w := by
  cases w <;> rfl

/-- Bit 0 of `STATUS` is the flag, and decides between the wake cycle and the sleep-arm sequence. -/
theorem regsTurn_of_checkStatus (c : Config) {x : Consumer × Regs} (e : Surroundings)
    (h : x.1.phase = .checkStatus) :
    (regsTurn c x e).1 = { x.1 with phase := if x.2.wake then .snap else .disableInts } := by
  have hbit : (hostByte x.1.phase.hostOp x.2).getLsbD 0 = x.2.wake := by
    rw [h]
    exact statusByte_getLsbD_zero x.2.wake
  simp only [regsTurn, Consumer.observe, h] at hbit ⊢
  rw [hbit]
  cases x.2.wake <;> rfl

/-- Asleep, the consumer is released by `irq`, whose level is the flag, or from elsewhere. -/
theorem regsTurn_of_asleep (c : Config) {x : Consumer × Regs} (e : Surroundings)
    (h : x.1.phase = .asleep) :
    (regsTurn c x e).1 = if x.1.intsEnabled && (x.2.wake || e.other)
      then { x.1 with phase := .disarm } else x.1 := by
  simp only [regsTurn, Consumer.observe, h]

/-! ## Nothing is shown without an edge (R94, R142) -/

/-- The phases outside the display sequence. -/
def outsideDisplay : List Phase :=
  [.checkStatus, .disableInts, .armSleep, .enableInts, .asleep, .disarm]

/-- With the flag clear a consumer outside its display sequence stays outside it. -/
theorem regsTurn_outsideDisplay (c : Config) {x : Consumer × Regs} (e : Surroundings)
    (h : x.1.phase ∈ outsideDisplay) (hwake : x.2.wake = false) :
    (regsTurn c x e).1.phase ∈ outsideDisplay ∧
      (regsTurn c x e).1.displays = x.1.displays := by
  cases hp : x.1.phase with
  | checkStatus =>
    rw [regsTurn_of_checkStatus c e hp, hwake]
    exact ⟨by simp [outsideDisplay], rfl⟩
  | asleep =>
    rw [regsTurn_of_asleep c e hp]
    split
    · exact ⟨by simp [outsideDisplay], rfl⟩
    · exact ⟨h, rfl⟩
  | disableInts | armSleep | enableInts | disarm =>
    simp only [regsTurn, Consumer.observe, hp]
    exact ⟨by decide, trivial⟩
  | _ =>
    rw [hp] at h
    exact absurd h (by decide)

/-- Settles O51: every turn keeps the flag clear with the three samples equal, and the consumer outside
its display sequence. -/
theorem consumerShowsNothingWithoutAnEdge : Obligations.ConsumerShowsNothingWithoutAnEdge := by
  intro s k b es hl hwake hsy1 hsy2 hprev hphase hpin
  obtain ⟨t, hturns, hregs⟩ := turns_eq hl es k
  obtain ⟨-, hshown, hquiet⟩ := regsTurns_induct (c := s.cfg) (es := es) (x := (k, s.regs))
    (P := fun y => y.1.phase ∈ outsideDisplay ∧ y.1.displays = k.displays ∧ y.2.Quiet b)
    (fun y e he ⟨hout, hsame, hq⟩ => by
      obtain ⟨hout', hsame'⟩ := regsTurn_outsideDisplay s.cfg e hout hq.1
      obtain ⟨hrst, -, hlevel⟩ := turnVector_fields y.1.phase e
      exact ⟨hout', hsame'.trans hsame, hq.nextRegs s.cfg hrst (hlevel.trans (hpin e he))⟩)
    ⟨hphase, rfl, hwake, hsy1, hsy2, hprev⟩
  exact ⟨_, t, hturns, hshown, hregs ▸ hquiet.1⟩

/-! ## A pending event is displayed (R141, R142, R172, R173) -/

/-- The turns from a phase to the end of the display, when the flag is set. -/
def Phase.turnsToDisplay : Phase → Nat
  | .display => 1
  | .readS => 2
  | .readM => 3
  | .readH => 4
  | .snap => 5
  | .checkStatus => 6
  | .disarm => 7
  | .asleep => 8
  | .enableInts => 9
  | .armSleep => 10
  | .disableInts => 11
  | .clear => 12

/-- A wake event that the consumer will come to see: the flag is set, it is not about to be cleared, and
a sleep can be released. -/
structure Pending (x : Consumer × Regs) : Prop where
  wake : x.2.wake = true
  not_clear : x.1.phase ≠ .clear
  wakeable : x.1.phase = .asleep → x.1.intsEnabled = true

/-- Before the display each turn brings it one turn nearer, and the event stays pending. -/
theorem Pending.after_turn {x : Consumer × Regs} (h : Pending x) (c : Config) (e : Surroundings)
    (hp : x.1.phase ≠ .display) :
    Pending (regsTurn c x e) ∧
      (regsTurn c x e).1.phase.turnsToDisplay + 1 = x.1.phase.turnsToDisplay ∧
      (regsTurn c x e).1.displays = x.1.displays := by
  obtain ⟨hwake, hclear, hints⟩ := h
  have hstays : (regsTurn c x e).2.wake = true := by
    rw [regsTurn, nextRegs_turnVector_wake, if_neg hclear, hwake, Bool.true_or]
  suffices hk : (regsTurn c x e).1.phase ≠ .clear ∧
      ((regsTurn c x e).1.phase = .asleep → (regsTurn c x e).1.intsEnabled = true) ∧
      (regsTurn c x e).1.phase.turnsToDisplay + 1 = x.1.phase.turnsToDisplay ∧
      (regsTurn c x e).1.displays = x.1.displays by
    obtain ⟨hclear', hints', hnear⟩ := hk
    exact ⟨⟨hstays, hclear', hints'⟩, hnear⟩
  cases hphase : x.1.phase with
  | checkStatus => simp [regsTurn_of_checkStatus c e hphase, hwake, Phase.turnsToDisplay]
  | asleep => simp [regsTurn_of_asleep c e hphase, hwake, hints hphase, Phase.turnsToDisplay]
  | clear => exact absurd hphase hclear
  | display => exact absurd hphase hp
  | _ => simp [regsTurn, Consumer.observe, hphase, Phase.turnsToDisplay]

theorem regsTurn_displays_of_display (c : Config) {x : Consumer × Regs} (e : Surroundings)
    (h : x.1.phase = .display) : (regsTurn c x e).1.displays = x.1.displays + 1 := by
  simp only [regsTurn, Consumer.observe, h]

theorem observe_displays_le (k : Consumer) (out : Output) (other : Bool) :
    k.displays ≤ (k.observe out other).displays := by
  cases hp : k.phase with
  | checkStatus | asleep =>
    simp only [Consumer.observe, hp]
    split <;> exact le_rfl
  | display => simp [Consumer.observe, hp]
  | _ => simp only [Consumer.observe, hp, le_refl]

/-- The count of display sequences never falls. -/
theorem regsTurns_displays_le (c : Config) (x : Consumer × Regs) (es : List Surroundings) :
    x.1.displays ≤ (regsTurns c x es).1.displays :=
  regsTurns_induct (P := fun y => x.1.displays ≤ y.1.displays)
    (fun y _ _ hy => hy.trans (observe_displays_le y.1 _ _)) le_rfl

/-- A pending event has been displayed after as many turns as its phase is away from the display. -/
theorem Pending.displayed {x : Consumer × Regs} (h : Pending x) (c : Config)
    {es : List Surroundings} (hlen : x.1.phase.turnsToDisplay ≤ es.length) :
    x.1.displays < (regsTurns c x es).1.displays := by
  induction es generalizing x with
  | nil =>
    cases hp : x.1.phase <;> simp [hp, Phase.turnsToDisplay] at hlen
  | cons e es ih =>
    rw [regsTurns_cons]
    by_cases hp : x.1.phase = .display
    · have hshown := regsTurn_displays_of_display c e hp
      have hkept := regsTurns_displays_le c (regsTurn c x e) es
      omega
    · obtain ⟨hpending, hnear, hsame⟩ := h.after_turn c e hp
      rw [List.length_cons] at hlen
      rw [← hsame]
      exact ih hpending (by omega)

/-- Settles O53: every phase but that of the `CLRW` is at most eleven turns away from the display. -/
theorem pendingWakeEventIsDisplayedWithinElevenCycles :
    Obligations.PendingWakeEventIsDisplayedWithinElevenCycles := by
  intro s k es hl hwake hclear hints hlen
  have hnear : k.phase.turnsToDisplay ≤ es.length := by
    rw [hlen]
    revert hclear
    cases k.phase <;> decide
  obtain ⟨t, hturns, -⟩ := turns_eq hl es k
  have hpending : Pending (k, s.regs) := ⟨hwake, hclear, hints⟩
  exact ⟨_, t, hturns, hpending.displayed s.cfg hnear⟩

/-! ## One event, one display (R93, R142) -/

/-- The snapshot of a consumer in that phase is of the clock at the start of the turn. -/
theorem regsTurn_of_snap (c : Config) {x : Consumer × Regs} (e : Surroundings)
    (h : x.1.phase = .snap) :
    (regsTurn c x e).1 = { x.1 with phase := .readH } ∧ (regsTurn c x e).2.snap = x.2.clock := by
  simp [regsTurn, Consumer.observe, h]

/-- The consumer after a wake cycle that showed the time of the snapshot `w`. -/
def Consumer.shown (k : Consumer) (w : Word) : Consumer :=
  { k with
    phase := .disableInts
    decH := packedHours (decodeTime w.toNat)
    decM := packedMinutes (decodeTime w.toNat)
    decS := packedSeconds (decodeTime w.toNat)
    displays := k.displays + 1 }

section WakeCycle

variable (c : Config) {x : Consumer × Regs} (e0 e1 e2 e3 e4 : Surroundings)

/-- From the read of the first digits to the end of the wake cycle: the digits of the snapshot are read
and shown once, no other snapshot is taken, and the `CLRW` clears the flag unless two of the levels
captured meanwhile differ. -/
theorem regsTurns_of_readH (h : x.1.phase = .readH) (hlt : x.2.snap.toNat < 86400000) :
    (regsTurns c x [e0, e1, e2, e3, e4]).1 = x.1.shown x.2.snap ∧
      (regsTurns c x [e0, e1, e2, e3, e4]).2.snap = x.2.snap ∧
      (regsTurns c x [e0, e1, e2, e3, e4]).2.wake = (e2.pin != e1.pin) := by
  have digits (r : Regs) (hr : r.snap = x.2.snap) :
      hostByte .rdDecH r = packedHours (decodeTime x.2.snap.toNat) ∧
        hostByte .rdDecM r = packedMinutes (decodeTime x.2.snap.toNat) ∧
        hostByte .rdDecS r = packedSeconds (decodeTime x.2.snap.toNat) :=
    hr ▸ memRead_digits (hr ▸ hlt)
  simp [regsTurn, Consumer.observe, Consumer.shown, h, Phase.hostOp, digits,
    nextRegs_turnVector_wake]

/-- A whole wake cycle: the set flag is seen in its first turn, and what is shown is the value of the
clock after it, of which the second turn takes the snapshot. -/
theorem regsTurns_of_checkStatus (e5 e6 : Surroundings) (h : x.1.phase = .checkStatus)
    (hwake : x.2.wake = true) (hlt : (regsTurn c x e0).2.clock.toNat < 86400000) :
    (regsTurns c x [e0, e1, e2, e3, e4, e5, e6]).1 = x.1.shown (regsTurn c x e0).2.clock ∧
      (regsTurns c x [e0, e1, e2, e3, e4, e5, e6]).2.snap = (regsTurn c x e0).2.clock ∧
      (regsTurns c x [e0, e1, e2, e3, e4, e5, e6]).2.wake = (e4.pin != e3.pin) := by
  have hsee : (regsTurn c x e0).1 = { x.1 with phase := .snap } := by
    rw [regsTurn_of_checkStatus c e0 h, hwake, if_pos rfl]
  obtain ⟨hread, hsnap⟩ := regsTurn_of_snap c e1 (congrArg Consumer.phase hsee)
  rw [← hsnap] at hlt ⊢
  obtain ⟨hshown, hkept, hclear⟩ :=
    regsTurns_of_readH c e2 e3 e4 e5 e6 (congrArg Consumer.phase hread) hlt
  refine ⟨?_, hkept, hclear⟩
  rw [regsTurns_cons, regsTurns_cons, hshown, hread, hsee]
  rfl

end WakeCycle

/-- Settles O52: the wake cycle shows the clock after its first turn, which is that of a state at rest
and so has a time of day; the steady pin gives no edge to set the flag again after the `CLRW`. -/
theorem oneWakeEventGivesOneDisplayAndAClearFlag :
    Obligations.OneWakeEventGivesOneDisplayAndAClearFlag := by
  intro s k b es hsafe hwake _ _ _ hphase hpin hlen
  match es, hlen with
  | [e0, e1, e2, e3, e4, e5, e6], _ =>
    obtain ⟨t, hturns, hregs⟩ := turns_eq hsafe.legal [e0, e1, e2, e3, e4, e5, e6] k
    obtain ⟨u, hfirst, hu⟩ := turns_eq hsafe.legal [e0] k
    have hlt : u.regs.clock.toNat < 86400000 := by
      rw [hu]
      exact ((hsafe.atRest.nextRegs hsafe.legal _).lt_day hsafe.legal).1
    rw [regsTurns_cons, regsTurns_nil] at hu
    obtain ⟨hshown, hsnap, hclear⟩ :=
      regsTurns_of_checkStatus s.cfg e0 e1 e2 e3 e4 e5 e6 hphase hwake (hu ▸ hlt)
    have hsteady : (e4.pin != e3.pin) = false := by simp [hpin e4, hpin e3]
    rw [hshown, ← hu] at hturns
    rw [← hregs] at hsnap hclear
    rw [← hu] at hsnap
    exact ⟨_, t, _, hturns, hfirst, rfl, rfl, hclear.trans hsteady, hsnap, rfl, rfl, rfl⟩

end Sys2Proof.Machine
end

section
/-! Family 70_reset_and_hazards: `RESET` and runs that start with it (R160, R162), the reset state
(R161), and a pin that is held away from `PIN_IDLE` over the reset (R176). -/

namespace Sys2Proof.Machine

/-! ## The cycle of a reset (R160) -/

theorem decodeSlot_reset_iff (v : InVec) : decodeSlot .reset v = some .reset ↔ vecRst v = true := by
  cases hr : vecRst v <;> simp [decodeSlot, hr]

/-- The row of `RESET`, as a comparison of the masked vector (R56). -/
theorem decodeSlot_reset_iff_masked (v : InVec) :
    decodeSlot .reset v = some .reset ↔ v &&& 0x10000#17 = 0x10000#17 := by
  have hrow : (v &&& 0x10000#17 == 0x10000#17) = vecRst v := selects_reset "RESET" .reset v
  rw [decodeSlot_reset_iff, ← beq_iff_eq (b := 0x10000#17), hrow]

theorem cycleOut_of_reset {v : InVec} (h : vecRst v = true) (r : Regs) :
    cycleOut v r = ⟨r.wake, 0x00#8⟩ := by rw [cycleOut, if_pos h]

/-- What a cycle with `rst = 1` leaves of a state, whatever the other bits of its vector. -/
theorem State.after_of_reset {v : InVec} (h : vecRst v = true) (s : State) :
    s.after v = { s with regs := Regs.reset s.cfg, out := ⟨s.regs.wake, 0x00#8⟩ } := by
  rw [State.after, nextRegs_of_reset _ h, cycleOut_of_reset h]

/-! ## Runs with a reset at their end or at their start (R160, R162) -/

/-- A run whose last cycle is a reset ends with the reset values. -/
theorem foldRegs_concat_reset (c : Config) (r : Regs) (vs : List InVec) {v : InVec}
    (h : vecRst v = true) : foldRegs c r (vs ++ [v]) = Regs.reset c := by
  rw [foldRegs_append, foldRegs_cons, nextRegs_of_reset c h, foldRegs_nil]

/-- Settles O15: a cycle with `rst = 1` takes the reset branch, and a run of such cycles ends in one. -/
theorem resetLoadsEveryRegisterAndOverridesTheCycle :
    Obligations.ResetLoadsEveryRegisterAndOverridesTheCycle := by
  refine ⟨decodeSlot_reset_iff_masked, fun s hl => ?_⟩
  refine ⟨Regs.reset s.cfg, initMs_toNat hl, rfl, initMs_toNat hl, rfl, rfl, rfl, rfl, rfl,
    exec_reset s, fun v hv => ?_, fun vs t hne hrst hrun => ?_⟩
  · rw [step_placeInput hl, State.after_of_reset hv]
  · obtain ⟨front, v, rfl⟩ := vs.eq_nil_or_concat'.resolve_left hne
    rw [(runInputs_inv hl hrun).1, foldRegs_concat_reset _ _ _ (hrst v (by simp))]

/-- Registers before a reset do not matter to the run from there. -/
theorem foldRegs_cons_reset (c : Config) (r : Regs) {v : InVec} (h : vecRst v = true)
    (vs : List InVec) : foldRegs c r (v :: vs) = foldRegs c (Regs.reset c) vs := by
  rw [foldRegs_cons, nextRegs_of_reset c h]

/-- Settles O18: both runs go on from the reset values. -/
theorem runsThatStartWithResetForgetTheStateBefore :
    Obligations.RunsThatStartWithResetForgetTheStateBefore := by
  intro s vs hl hstart
  match vs, hstart with
  | v :: rest, hv =>
    obtain ⟨o, hrun⟩ := runInputs_eq hl (v :: rest)
    obtain ⟨p, hrest⟩ := runInputs_eq (s := State.resetOf s.cfg) hl rest
    exact ⟨_, _, hrun, hrest, foldRegs_cons_reset s.cfg s.regs hv rest⟩

/-! ## The reset state (R161) -/

/-- Settles O16: the reset values are at rest, and `irq` shows their clear flag in the next cycle. -/
theorem stateAfterResetHoldsTheInitialTime : Obligations.StateAfterResetHoldsTheInitialTime := by
  intro c hc
  refine ⟨⟨hc, Regs.reset_atRest hc⟩, initMs_toNat hc, initMs_toNat hc, rfl, rfl, rfl, rfl, rfl, rfl,
    fun v => ?_⟩
  obtain ⟨t, hstep, -, -, hout⟩ := step_placeInput_next (s := State.resetOf c) hc rfl v
  exact ⟨t, hstep, congrArg Output.irq hout⟩

/-! ## A pin held away from `PIN_IDLE` (R176) -/

/-- A quiet state's flag stays clear for two cycles, whatever levels they capture: the first captured
level is not yet in `SY2` when the second cycle looks for an edge. -/
theorem Regs.Quiet.wake_after_two {b : Bool} {r : Regs} (h : r.Quiet b) (c : Config) {v w : InVec}
    (hv : vecRst v = false) (hw : vecRst w = false) :
    (Machine.nextRegs c w (Machine.nextRegs c v r)).wake = false := by
  obtain ⟨hwake, hsy1, hsy2, hprev⟩ := h
  obtain ⟨-, hsy2', hprev'⟩ := nextRegs_sync c hv r
  have hwake' := nextRegs_wake_of_no_edge c hv hwake (hsy2.trans hprev.symm)
  exact nextRegs_wake_of_no_edge c hw hwake' (by rw [hsy2', hprev', hsy1, hsy2])

/-- Settles O36: the reset state is quiet at `PIN_IDLE`, so the held level is a captured change. -/
theorem heldPinWakesThreeCyclesAfterReset : Obligations.HeldPinWakesThreeCyclesAfterReset := by
  intro s v v0 v1 v2 hl hv h0 h1 h2 hpin _ _
  obtain ⟨o, htwo⟩ := runInputs_eq hl [v, v0, v1]
  obtain ⟨p, hthree⟩ := runInputs_eq hl [v, v0, v1, v2]
  rw [foldRegs_cons_reset _ _ hv] at htwo hthree
  have hchange : vecPin v0 ≠ (Regs.reset s.cfg).sy1 := by simp [hpin]
  exact ⟨_, _, htwo, (Regs.reset_quiet s.cfg).wake_after_two s.cfg h0 h1,
    hthree, nextRegs_third_wake s.cfg h0 h1 h2 hchange⟩

end Sys2Proof.Machine
end

section
/-! Family other: the decoder after the encoder, slot by slot and on whole cycles (R51 to R58), the words
of the opcode table (log entries 6 and 7), refusals (log entry 5), and the model's reset state (R161). -/

namespace Sys2Proof

/-! ## The decoder after the encoder (R51 to R58) -/

/-- A well-formed host operation is what the host bits of its own encoding select: only for `WR.IGN` is
there something to show, that its operands are no command (R58). -/
theorem decodeHost_encode {i : Instr} (hslot : i.slot = .host) (hwf : i.wf = true) :
    decodeHost (encode i) = i := by
  cases i with
  | reset | tick | sample0 | sample1 => cases hslot
  | wrIgn a x => simp [encode, decodeHost, decodeWrite_of_wf hwf]
  | _ => rfl

/-- The encoding of a host operation leaves the reset bit 0 (R54). -/
theorem vecRst_encode_of_host {i : Instr} (hslot : i.slot = .host) (hwf : i.wf = true) :
    vecRst (encode i) = false := by
  have hfields := encode_decodeHost (encode i)
  rw [decodeHost_encode hslot hwf] at hfields
  rw [hfields, vecRst_vecOf]

/-- The host operation does not depend on the bits of the other slots (R52). -/
theorem decodeHost_vecOf_fields (rst tick pin : Bool) (v : InVec) :
    decodeHost (vecOf rst tick pin (vecSel v) (vecWe v) (vecAddr v) (vecWdata v)) = decodeHost v :=
  (decodeHost_eq_iff _ v).2 (by simp)

/-- Every well-formed cycle is selected by some vector: the host bits of its operation's encoding, with
the wires of the tick and of the pin set beside them. -/
theorem exists_decode_eq {c : Cycle} (h : c.wf = true) : ∃ v : InVec, decode v = c := by
  cases c with
  | reset => exact ⟨encode .reset, rfl⟩
  | run host tick pin =>
    obtain ⟨hslot, hwf⟩ : host.slot = .host ∧ host.wf = true := by simpa [Cycle.wf] using h
    refine ⟨vecOf false tick pin (vecSel (encode host)) (vecWe (encode host)) (vecAddr (encode host))
      (vecWdata (encode host)), ?_⟩
    rw [decode_of_not_rst (vecRst_vecOf ..), decodeHost_vecOf_fields, decodeHost_encode hslot hwf,
      vecTick_vecOf, vecPin_vecOf]

/-! ## The words of the opcode table (log entry 6) -/

/-- The operation that stands for a cycle is one of its operations. -/
theorem Cycle.principal_mem_ops (c : Cycle) : c.principal ∈ c.ops := by
  cases c with
  | reset => simp [Cycle.principal, Cycle.ops]
  | run host tick pin =>
    by_cases hidle : host = .idle
    · cases tick <;> simp [Cycle.principal, Cycle.ops, hidle]
    · cases tick <;> simp [Cycle.principal, Cycle.ops, hidle]

/-- A word names an operation exactly when it is a vector whose cycle that operation stands for. -/
theorem decodeTableWord_eq_some_iff (nbits w : Nat) (i : Instr) :
    decodeTableWord nbits w = some i ↔
      w < 2 ^ 17 ∧ (decode (BitVec.ofNat 17 w)).principal = i := by
  by_cases hw : w < 2 ^ 17
  · simp [decodeTableWord, decodeNumber, hw, -Nat.reducePow]
  · simp [decodeTableWord, decodeNumber, hw, -Nat.reducePow]

end Sys2Proof

namespace Sys2Proof.Machine

/-- Settles O3: a well-formed cycle is the decode of some vector, and on those O4 gives the round trip. -/
theorem cycleDecodeOfEncodeIsTheCycle : Obligations.CycleDecodeOfEncodeIsTheCycle := by
  intro c hwf
  obtain ⟨v, rfl⟩ := exists_decode_eq hwf
  obtain ⟨-, -, hround⟩ := encodeOfDecodeDiffersOnlyInIgnoredBits v
  exact hround

/-- Settles O2, slot by slot: the host slot by the decoder of host operations, the other three by the one
bit that their operations set. -/
theorem slotDecodeOfEncodeIsTheOperation : Obligations.SlotDecodeOfEncodeIsTheOperation := by
  intro i hwf
  cases hslot : i.slot with
  | reset =>
    obtain rfl := Instr.eq_reset_of_slot hslot
    exact (decodeSlot_reset_iff _).2 (vecRst_vecOf ..)
  | tick =>
    obtain rfl := Instr.eq_tick_of_slot hslot
    exact (decodeSlot_tick_iff _).2 ⟨vecRst_vecOf .., vecTick_vecOf ..⟩
  | pin =>
    obtain ⟨b, rfl⟩ := Instr.eq_pinInstr_of_slot hslot
    rw [encode_pin_slot]
    exact (decodeSlot_pin_iff _ b).2 ⟨vecRst_vecOf .., vecPin_vecOf ..⟩
  | host =>
    simp [decodeSlot, vecRst_encode_of_host hslot hwf, decodeHost_encode hslot hwf]

/-- Settles O1 by decoding each of the vectors. -/
theorem writtenVectorsSelectTheirOperations : Obligations.WrittenVectorsSelectTheirOperations := by
  unfold Obligations.WrittenVectorsSelectTheirOperations
  decide

/-- Settles O10: the word's vector is the one listed first, so the step runs its operations (O9). -/
theorem tableWordIsRunByTheNextStep : Obligations.TableWordIsRunByTheNextStep := by
  intro s nbits w i hl hword
  obtain ⟨hw, rfl⟩ := (decodeTableWord_eq_some_iff nbits w i).1 hword
  obtain ⟨hlisted, -⟩ := stepRunsTheDecodedOperations (s.withFetchWord nbits w) hl
  exact ⟨hw, Cycle.principal_mem_ops _, hlisted (BitVec.ofNat 17 w) s.inputs.tail rfl⟩

/-- Settles O11: a legal block's step completes, and any other is refused. -/
theorem stepRefusesExactlyIllFormedConfigurations :
    Obligations.StepRefusesExactlyIllFormedConfigurations := by
  intro s
  constructor
  · intro href hl
    rw [step_eq hl] at href
    cases href
  · intro hl
    rw [step, if_neg hl]

/-- Settles O17: the reset state of any legal parameters is safe (O16), and the standard ones are legal. -/
theorem resetStateOfTheStandardParametersIsSafe :
    Obligations.ResetStateOfTheStandardParametersIsSafe := by
  have hlegal : Config.standard.Legal := by decide
  obtain ⟨hsafe, -⟩ := stateAfterResetHoldsTheInitialTime Config.standard hlegal
  exact hsafe

end Sys2Proof.Machine
end
